-- ==== Sys2Proof/Word.lean ====
section
/-! DEFINITION. The words of the channel's interface, and the two names an instance may have. -/

namespace Sys2Proof

/-- The datum of a register write, 8 bits (R60). -/
abbrev Byte := BitVec 8

/-- The event word of the spec's notation, 16 bits (R66). -/
abbrev EventWord := BitVec 16

/-- Which of the chip's two instances of the channel (R13). -/
inductive Identity where
  | first
  | second
  deriving DecidableEq, Repr

end Sys2Proof
end

