-- ==== Sys2Proof/Config.lean ====
section
/-! DEFINITION. The open parameters of R5, as plain data. A chip is built with one value of them and no event changes it.
The machine's State holds one `Config`, so every statement about a state is a statement for every value of the
parameters (R5: "A model takes each `OPEN` parameter as an argument"). Log 6. -/

namespace Sys2Proof

/-- The open parameters of 00_scope.md rule R5. The two that are the input sequence itself (sweep cadence, chip cycle)
are the queue of input events in State. -/
structure Config where
  /-- `TW - 12`. R5 requires `TW >= 12`, so the width is stored as its excess over 12. -/
  twExtra : Nat
  /-- `VW`, the width in bits of `vol` and of a sample. -/
  vw : Nat
  /-- `HALT_BIT`, a bit of `b[5:0]` (R5: it cannot be bit 7 or 6). -/
  haltBit : Fin 6
  /-- `DUTY[0]`: bit `p` of the field is `DUTY[0][p]` (R25). -/
  duty0 : BitVec 8
  /-- `DUTY[1]`. -/
  duty1 : BitVec 8
  /-- `DUTY[2]`. -/
  duty2 : BitVec 8
  /-- `DUTY[3]`. -/
  duty3 : BitVec 8
  /-- `BASE`, the address of the first window (R44). -/
  base : Nat
  deriving DecidableEq, Repr

/-- `TW`, the width of `sweepTargetPeriod` (R5, R24). -/
def Config.tw (cfg : Config) : Nat := 12 + cfg.twExtra

end Sys2Proof
end

