-- ==== Sys2Proof/Syntax.lean ====
section
/-! DEFINITION. The operations of the channel, one constructor per row of the opcode table (R6, R72). -/

namespace Sys2Proof

/-- The input events. `c` is the instance the event word addresses; events without it go to both (R56). -/
inductive Instr where
  /-- `W0`: the byte `b` is written to offset 0, duty and envelope (R81). -/
  | w0 (c : Identity) (b : Byte)
  /-- `W1`: offset 1, sweep setup (R83). -/
  | w1 (c : Identity) (b : Byte)
  /-- `W2`: offset 2, period low byte (R84). -/
  | w2 (c : Identity) (b : Byte)
  /-- `W3`: offset 3, period high bits, length load, restart (R85). -/
  | w3 (c : Identity) (b : Byte)
  /-- `CYC`: one chip cycle (R100). -/
  | cyc
  /-- `SWP`: one tick of the sweep clock (R126). -/
  | swp
  /-- `RST`: reset (R170). -/
  | rst
  /-- `SNAP`: snapshot (R141). -/
  | snap (c : Identity)
  /-- `REST`: restore from the record beside the word (R142). -/
  | rest (c : Identity)
  deriving DecidableEq, Repr

end Sys2Proof
end

