-- ==== Sys2Proof/WellFormed.lean ====
section
/-! DEFINITION. What is well-formed. Every term of `Instr` is: all four offsets and all 256 data values are legal (R60,
R68), and the operand types hold nothing else. What can be ill-formed is a set of parameters: R5 and R25 constrain the
waveform table. -/

namespace Sys2Proof

/-- No event is ill-formed: "nothing is reserved or illegal: every offset is assigned" (R68). -/
def Instr.wf : Instr → Bool
  | .w0 _ _ => true
  | .w1 _ _ => true
  | .w2 _ _ => true
  | .w3 _ _ => true
  | .cyc => true
  | .swp => true
  | .rst => true
  | .snap _ => true
  | .rest _ => true

/-- The number of ones in one row of the waveform table. -/
def onesIn (row : BitVec 8) : Nat :=
  (List.range 8).countP row.getLsbD

/-- "`DUTY[0]` has exactly one bit set, `DUTY[1]` exactly two, `DUTY[2]` exactly four, `DUTY[3]` exactly six" (R25). -/
def Config.wf (cfg : Config) : Bool :=
  onesIn cfg.duty0 == 1 && onesIn cfg.duty1 == 2 && onesIn cfg.duty2 == 4 && onesIn cfg.duty3 == 6

end Sys2Proof
end

