-- ==== Sys2Proof/Decode.lean ====
section
/-! DEFINITION. The event word (R66): the decoder, total on all 65536 words and refusing by name the words that spell no
event (R68), then the encoder, written from the same table (R66, R72). -/

namespace Sys2Proof

/-- Why a word spells no event (R68). -/
inductive DecodeError where
  /-- "bit 11 set". -/
  | bit11Set
  /-- "`k` in 6 to 15". -/
  | reservedKind
  /-- A bit set that the word's kind needs to be 0: bits 10 to 0 for kinds 1 to 3, bits 9 to 0 for kinds 4 and 5. -/
  | operandBitsSet
  deriving DecidableEq, Repr

/-- What the decoder answers. -/
inductive Decoded where
  | event (i : Instr)
  | noEvent (e : DecodeError)
  deriving DecidableEq, Repr

/-- The event word's instance bit: 0 `First`, 1 `Second` (R66). -/
def identityOfBit : Bool → Identity
  | false => .first
  | true => .second

/-- A decoder reads the kind `k` first, then for `k = 0` the offset `o` (R72). -/
def decodeWord (w : EventWord) : Decoded :=
  let c := identityOfBit (w.getLsbD 10)
  let b := w.extractLsb' 0 8
  if w.getLsbD 11 then .noEvent .bit11Set
  else
    match (w.extractLsb' 12 4).toNat with
    | 0 =>
      match (w.extractLsb' 8 2).toNat with
      | 0 => .event (.w0 c b)
      | 1 => .event (.w1 c b)
      | 2 => .event (.w2 c b)
      | _ => .event (.w3 c b)
    | 1 => if w.extractLsb' 0 11 = 0#11 then .event .cyc else .noEvent .operandBitsSet
    | 2 => if w.extractLsb' 0 11 = 0#11 then .event .swp else .noEvent .operandBitsSet
    | 3 => if w.extractLsb' 0 11 = 0#11 then .event .rst else .noEvent .operandBitsSet
    | 4 => if w.extractLsb' 0 10 = 0#10 then .event (.snap c) else .noEvent .operandBitsSet
    | 5 => if w.extractLsb' 0 10 = 0#10 then .event (.rest c) else .noEvent .operandBitsSet
    | _ => .noEvent .reservedKind

/-- The instruction the decoder reads from an opcode-table row's word. An event is one word of 16 bits, so a word with a
bit above bit 15 set is none. -/
def decodeTableWord (nbits w : Nat) : Option Instr :=
  let v := w % 2 ^ nbits
  if v < 2 ^ 16 then
    match decodeWord (BitVec.ofNat 16 v) with
    | .event i => some i
    | .noEvent _ => none
  else none

/-- The instance bit of an identity (R66). -/
def bitOfIdentity : Identity → BitVec 1
  | .first => 0#1
  | .second => 1#1

/-- The word of a `WRITE` to offset `o`: kind 0, bit 11 zero, then `c`, `o`, `b` (R60, R66). -/
def encodeWrite (c : Identity) (o : BitVec 2) (b : Byte) : EventWord :=
  0b00000#5 ++ bitOfIdentity c ++ o ++ b

/-- The word of an event (R66, R72). -/
def encode : Instr → EventWord
  | .w0 c b => encodeWrite c 0#2 b
  | .w1 c b => encodeWrite c 1#2 b
  | .w2 c b => encodeWrite c 2#2 b
  | .w3 c b => encodeWrite c 3#2 b
  | .cyc => 0x1000#16
  | .swp => 0x2000#16
  | .rst => 0x3000#16
  | .snap c => 0b01000#5 ++ bitOfIdentity c ++ 0#10
  | .rest c => 0b01010#5 ++ bitOfIdentity c ++ 0#10

/-- One row of the opcode table's columns "match" and "mask" (R72). -/
structure OpcodeRow where
  value : EventWord
  mask : EventWord
  deriving DecidableEq, Repr

/-- The row of R72 that an event belongs to. -/
def opcodeRow : Instr → OpcodeRow
  | .w0 _ _ => ⟨0x0000#16, 0xFB00#16⟩
  | .w1 _ _ => ⟨0x0100#16, 0xFB00#16⟩
  | .w2 _ _ => ⟨0x0200#16, 0xFB00#16⟩
  | .w3 _ _ => ⟨0x0300#16, 0xFB00#16⟩
  | .cyc => ⟨0x1000#16, 0xFFFF#16⟩
  | .swp => ⟨0x2000#16, 0xFFFF#16⟩
  | .rst => ⟨0x3000#16, 0xFFFF#16⟩
  | .snap _ => ⟨0x4000#16, 0xFBFF#16⟩
  | .rest _ => ⟨0x5000#16, 0xFBFF#16⟩

end Sys2Proof
end

