-- ==== Sys2Proof/Machine/Channel.lean ====
section
/-! DEFINITION. The plain data of one channel instance: its Channel State (R12), what crosses its ports (R30 to R35), the
snapshot record (R140), and the input events that reach the chip (R36). -/

namespace Sys2Proof.Machine

/-- All state of one instance: the twelve fields of R12. -/
structure Channel where
  /-- R13. Set at construction, changed by no event. -/
  identity : Identity
  /-- R14. -/
  period : BitVec 11
  /-- R15: cycles remaining until the next duty advance, 0 to 2048. -/
  timer : Nat
  /-- R16. -/
  dutyIndex : BitVec 2
  /-- R17. -/
  dutyPos : BitVec 3
  /-- R18. -/
  sweepEnabled : Bool
  /-- R19. -/
  sweepNegate : Bool
  /-- R20. -/
  sweepShift : BitVec 3
  /-- R21: 1 to 8. -/
  sweepDividerPeriod : Nat
  /-- R22: 0 to 8. -/
  sweepDivider : Nat
  /-- R23. -/
  sweepReloadPending : Bool
  /-- R24: the `TW`-bit candidate period last computed. -/
  sweepTargetPeriod : Nat
  deriving DecidableEq, Repr

/-- The snapshot record: the eleven mutable fields, in the order of R140. -/
structure Record where
  dutyIndex : BitVec 2
  dutyPos : BitVec 3
  sweepEnabled : Bool
  sweepDividerPeriod : Nat
  sweepNegate : Bool
  sweepShift : BitVec 3
  sweepReloadPending : Bool
  sweepDivider : Nat
  sweepTargetPeriod : Nat
  period : BitVec 11
  timer : Nat
  deriving DecidableEq, Repr

/-- One amplitude sample with its cycle stamp (R35, R104). -/
structure Sample where
  amplitude : Nat
  atCycle : Nat
  deriving DecidableEq, Repr

/-- The commands to the envelope/length-counter collaborator (R30 to R33). -/
inductive Command where
  | lenInit (h : Bool)
  | envInit (b : Byte)
  | lenLoad (n : BitVec 5)
  | envReset
  deriving DecidableEq, Repr

/-- One instance of the channel with its ports. The three traces are appended to, oldest entry first (R7). -/
structure Instance where
  /-- The Channel State. -/
  chan : Channel
  /-- What the collaborator presents as `currentVolume()` now: an input (R34). Log 4. -/
  vol : Nat
  /-- The samples emitted so far (R35). -/
  samples : List Sample
  /-- The commands sent so far (R30 to R33). -/
  commands : List Command
  /-- The records answered so far on the snapshot port (R141). -/
  records : List Record
  deriving DecidableEq, Repr

/-- What the outside may ask of the chip. -/
inductive Request where
  /-- An input event, as its event word (R66). -/
  | word (w : EventWord)
  /-- A byte store to a bus address (R44, R57). -/
  | store (addr : Nat) (b : Byte)
  /-- A byte load from a bus address (R46). -/
  | load (addr : Nat)
  deriving DecidableEq, Repr

/-- One entry of the input sequence: the request, the value `vol` each collaborator presents while it is processed (R34),
and the record beside the word on the snapshot port (R66, R142). -/
structure Input where
  request : Request
  volFirst : Nat
  volSecond : Nat
  record : Record
  deriving DecidableEq, Repr

end Sys2Proof.Machine
end

