-- ==== Sys2Proof/Machine/ResetValues.lean ====
section
/-! DEFINITION. The values after reset (R38), and the parameter values State.reset is given. -/

namespace Sys2Proof.Machine

/-- The Channel State after reset: the table of R38 (D1). `identity` is a construction parameter and is kept. -/
def Channel.reset (c : Identity) : Channel :=
  { identity := c
    period := 0#11
    timer := 0
    dutyIndex := 0#2
    dutyPos := 0#3
    sweepEnabled := false
    sweepNegate := false
    sweepShift := 0#3
    sweepDividerPeriod := 1
    sweepDivider := 0
    sweepReloadPending := false
    sweepTargetPeriod := 0 }

/-- The record of the reset Channel State (R170: the example). -/
def Record.reset : Record :=
  ⟨0#2, 0#3, false, 1, false, 0#3, false, 0, 0, 0#11, 0⟩

/-- PRESUMED (log 6): the defaults R5 marks "from general knowledge", and its suggested width 12 of the target. Only
State.reset uses them; no rule depends on them. -/
def presumedConfig : Config :=
  { twExtra := 0
    vw := 4
    haltBit := 5
    duty0 := 0b00000010#8
    duty1 := 0b00000110#8
    duty2 := 0b00011110#8
    duty3 := 0b11111001#8
    base := 0x4000 }

/-- One instance as it is constructed: the reset Channel State, nothing emitted (log 7), and DESIGN CHOICE (log 4) `vol`
at 0 until the first event brings a value. -/
def Instance.reset (c : Identity) : Instance :=
  { chan := Channel.reset c, vol := 0, samples := [], commands := [], records := [] }

end Sys2Proof.Machine
end

