-- ==== Sys2Proof/Machine/State.lean ====
section
/-! DEFINITION. The state of the chip: the pair of instances (R1, R56, R160), the construction parameters (R5), and the
ports through which the driver reaches the pair (R36). Plain data throughout. -/

namespace Sys2Proof.Machine

/-- Everything the spec gives the machine. There is no memory, no register file and no program counter (R10, R11, R28). -/
structure State where
  /-- The open parameters (R5); changed by no event. -/
  config : Config
  /-- The instance `First`. -/
  first : Instance
  /-- The instance `Second`. -/
  second : Instance
  /-- The input events not yet delivered, oldest first (R8, R36). Log 2. -/
  input : List Input
  /-- The record now on the snapshot port's input (R142). Log 5. -/
  recordIn : Record
  /-- How many `CYCLE` events have run: the cursor that stamps samples (R35, D20). Log 8. -/
  cycleIndex : Nat
  deriving DecidableEq, Repr

/-- There is no fault: "The channel has no fault state and no way to be stuck" (R156, R150). -/
inductive Fault where
  deriving DecidableEq, Repr

/-- Why the model takes no step. All of them are at the model's own boundary (R156). -/
inductive Refusal where
  /-- An instruction without a meaning in this model. Raised by an arm of `exec` that is not modelled; safe. -/
  | notModelled (mnemonic : String)
  /-- The next word of the input spells no event (R68, U12). Raised by the fetch; safe. -/
  | notAnEvent (e : DecodeError)
  /-- A load from the write-only window (R46, U7, D8). Raised by the fetch; safe. -/
  | windowRead (addr : Nat)
  /-- A `RESTORE` record outside the invariants of R37 (R142, U13, D22). Raised by `REST`; safe. -/
  | recordOutsideInvariants (c : Identity)
  deriving DecidableEq, Repr

/-- The chip right after reset: both instances in the reset state of R38 (R160), an empty input queue, nothing emitted.
The parameters are PRESUMED (log 6); `vol`, the record input and the cycle index are the model's own (logs 4, 5, 8). -/
def State.reset : State :=
  { config := presumedConfig
    first := Instance.reset .first
    second := Instance.reset .second
    input := []
    recordIn := Record.reset
    cycleIndex := 0 }

end Sys2Proof.Machine
end

