-- ==== Sys2Proof/Machine/Operands.lean ====
section
/-! DEFINITION. The operand forms: the bit fields of the datum at each offset (R61 to R65), and where a byte store to the
windows goes (R44). -/

namespace Sys2Proof.Machine

/-- Offset 0, `D = b[7:6]` (R61). -/
def dutyField (b : Byte) : BitVec 2 := b.extractLsb' 6 2

/-- Offset 0, the length-counter-halt flag `b[HALT_BIT]` (R61). -/
def haltFlag (cfg : Config) (b : Byte) : Bool := b.getLsbD cfg.haltBit

/-- Offset 1, `E = b[7]`; 1 is `true` (R62, R65). -/
def enableField (b : Byte) : Bool := b.getLsbD 7

/-- Offset 1, `P = b[6:4]` (R62). -/
def dividerField (b : Byte) : BitVec 3 := b.extractLsb' 4 3

/-- Offset 1, `N = b[3]` (R62). -/
def negateField (b : Byte) : Bool := b.getLsbD 3

/-- Offset 1, `S = b[2:0]` (R62). -/
def shiftField (b : Byte) : BitVec 3 := b.extractLsb' 0 3

/-- Offset 3, `n = b[7:3]` (R64). -/
def lengthField (b : Byte) : BitVec 5 := b.extractLsb' 3 5

/-- Offset 3, `H = b[2:0]` (R64). -/
def periodHighField (b : Byte) : BitVec 3 := b.extractLsb' 0 3

/-- The divider period: the raw field plus one, 1 to 8 (R65). -/
def dividerPeriodOf (b : Byte) : Nat := (dividerField b).toNat + 1

/-- `{period[10:8], b}`: offset 2 replaces the low byte (R63, R65). -/
def withPeriodLow (period : BitVec 11) (b : Byte) : BitVec 11 :=
  period.extractLsb' 8 3 ++ b

/-- `{H, period[7:0]}`: offset 3 replaces the high three bits (R64, R65). -/
def withPeriodHigh (period : BitVec 11) (b : Byte) : BitVec 11 :=
  periodHighField b ++ period.extractLsb' 0 8

/-- The write at offset `o` (R60: all four offsets are defined). -/
def writeEvent (c : Identity) (o : Nat) (b : Byte) : Instr :=
  match o with
  | 0 => .w0 c b
  | 1 => .w1 c b
  | 2 => .w2 c b
  | _ => .w3 c b

/-- A bus address lies in one of the two windows: `BASE .. BASE + 7` (R44, R47). -/
def inWindows (cfg : Config) (addr : Nat) : Bool :=
  decide (cfg.base ≤ addr) && decide (addr < cfg.base + 8)

/-- Window decode: `A = BASE + 4*c + o`, with `c = 0` for `First` (R44, D7). Outside the windows no write reaches either
instance (R47). -/
def routeStore (cfg : Config) (addr : Nat) (b : Byte) : Option Instr :=
  if inWindows cfg addr then
    let off := addr - cfg.base
    some (writeEvent (if off < 4 then .first else .second) (off % 4) b)
  else none

end Sys2Proof.Machine
end

