-- ==== Sys2Proof/Machine/Flags.lean ====
section
/-! DEFINITION. The predicates on the channel. There are no condition codes (R26); the one derived signal is `Muted`, and the
one guard is the commit guard of the sweep. -/

namespace Sys2Proof.Machine

/-- `Muted = (period < 8) or (sweepTargetPeriod > 2047)`, stored nowhere (R102). -/
def Channel.muted (ch : Channel) : Bool :=
  decide (ch.period.toNat < 8) || decide (2047 < ch.sweepTargetPeriod)

/-- The commit guard on the period and shift before the commit and on the target (R121, R124). `sweepEnabled` is no part
of it. -/
def Channel.mayCommit (ch : Channel) (target : Nat) : Bool :=
  decide (0 < ch.sweepShift.toNat) && decide (8 ≤ ch.period.toNat) && decide (target ≤ 2047)

end Sys2Proof.Machine
end

