-- ==== Sys2Proof/Machine/Ops.lean ====
section
/-! DEFINITION. The shared operations: access to the two instances, the output ports, and the internal procedures of the
channel (R6): `Target`, `RecomputeTarget`, `Clock`, `TimerStep`, `InitializeSweep`. No exception is ever taken (R150,
R154), so there is no entry to one and no return from one. -/

namespace Sys2Proof.Machine

/-! ## The pair (R44, R56, R160) -/

/-- The instance an event word addresses. -/
def State.inst (s : State) : Identity → Instance
  | .first => s.first
  | .second => s.second

/-- Replace one instance; the other is kept ("No field is shared across channel instances", R12). -/
def State.setInst (s : State) (c : Identity) (i : Instance) : State :=
  match c with
  | .first => { s with first := i }
  | .second => { s with second := i }

/-- Apply a function to both instances: a broadcast event (R56). -/
def State.both (s : State) (f : Instance → Instance) : State :=
  { s with first := f s.first, second := f s.second }

/-- One more `CYCLE` event has run: the driver's cursor that stamps samples (R35, D20). Log 8. -/
def State.countCycle (s : State) : State := { s with cycleIndex := s.cycleIndex + 1 }

/-! ## The ports -/

/-- `emit Sample(a)` (R7, R35). -/
def Instance.emitSample (i : Instance) (a stamp : Nat) : Instance :=
  { i with samples := i.samples ++ [⟨a, stamp⟩] }

/-- `emit` a command to the collaborator (R7, R30 to R33). -/
def Instance.emitCommand (i : Instance) (c : Command) : Instance :=
  { i with commands := i.commands ++ [c] }

/-- The value of `currentVolume()`, a `VW`-bit unsigned number (R34). -/
def Instance.readVol (cfg : Config) (i : Instance) : Nat := i.vol % 2 ^ cfg.vw

/-! ## The waveform table (R25) -/

/-- Row `d` of `DUTY`. -/
def dutyRow (cfg : Config) (d : BitVec 2) : BitVec 8 :=
  match d.toNat with
  | 0 => cfg.duty0
  | 1 => cfg.duty1
  | 2 => cfg.duty2
  | _ => cfg.duty3

/-- `DUTY[d][p]`, one bit. -/
def dutyBit (cfg : Config) (d : BitVec 2) (p : BitVec 3) : Bool :=
  (dutyRow cfg d).getLsbD p.toNat

/-! ## The sweep's target (R121 to R124) -/

/-- `trunc_N(v) = v mod 2^N`, also of a negative `v` (R7). -/
def trunc (n : Nat) (v : Int) : Nat := (v % 2 ^ n).toNat

/-- `Target(identity, p, s, neg)`: shift, add or subtract, and for `First` alone the further decrement when negating (R121,
R122, R123). -/
def sweepTarget (cfg : Config) (c : Identity) (p : BitVec 11) (s : BitVec 3) (neg : Bool) : Nat :=
  let delta := p.toNat >>> s.toNat
  if neg then
    let target := trunc cfg.tw ((p.toNat : Int) - delta)
    match c with
    | .first => trunc cfg.tw ((target : Int) - 1)
    | .second => target
  else p.toNat + delta

/-- The target of the channel's present fields (R108). -/
def Channel.freshTarget (cfg : Config) (ch : Channel) : Nat :=
  sweepTarget cfg ch.identity ch.period ch.sweepShift ch.sweepNegate

/-- `RecomputeTarget(applyIfEligible)`: the target is always stored; the period only when the guard holds (R121, R124). -/
def Channel.recomputeTarget (cfg : Config) (applyIfEligible : Bool) (ch : Channel) : Channel :=
  let target := ch.freshTarget cfg
  let stored := { ch with sweepTargetPeriod := target }
  if applyIfEligible && ch.mayCommit target then
    { stored with period := BitVec.ofNat 11 target }
  else stored

/-! ## The sequencer (R101 to R105) -/

/-- The amplitude `Clock` emits: 0 if muted, else `DUTY[dutyIndex][dutyPos] * vol`, with `dutyPos` already decremented
(R103, R105). -/
def Instance.amplitude (cfg : Config) (i : Instance) : Nat :=
  if i.chan.muted then 0
  else (dutyBit cfg i.chan.dutyIndex i.chan.dutyPos).toNat * i.readVol cfg

/-- `Clock`: step the duty position down modulo 8, then emit one sample (R103). -/
def Instance.clock (cfg : Config) (stamp : Nat) (i : Instance) : Instance :=
  let stepped := { i with chan := { i.chan with dutyPos := i.chan.dutyPos - 1#3 } }
  stepped.emitSample (stepped.amplitude cfg) stamp

/-- `TimerStep`: on expiry reload with `period + 1` and run `Clock`, else count down (R101). -/
def Instance.timerStep (cfg : Config) (stamp : Nat) (i : Instance) : Instance :=
  if i.chan.timer ≤ 1 then
    Instance.clock cfg stamp { i with chan := { i.chan with timer := i.chan.period.toNat + 1 } }
  else
    { i with chan := { i.chan with timer := i.chan.timer - 1 } }

/-! ## The sweep setup (R82) -/

/-- `InitializeSweep(b)`: the five fields of offset 1; the running divider is not touched (R82). -/
def Channel.initializeSweep (b : Byte) (ch : Channel) : Channel :=
  { ch with
    sweepEnabled := enableField b
    sweepNegate := negateField b
    sweepShift := shiftField b
    sweepDividerPeriod := dividerPeriodOf b
    sweepReloadPending := true }

/-! ## The snapshot record (R140 to R142) -/

/-- The eleven mutable fields as they are now (R141). -/
def Channel.toRecord (ch : Channel) : Record :=
  { dutyIndex := ch.dutyIndex
    dutyPos := ch.dutyPos
    sweepEnabled := ch.sweepEnabled
    sweepDividerPeriod := ch.sweepDividerPeriod
    sweepNegate := ch.sweepNegate
    sweepShift := ch.sweepShift
    sweepReloadPending := ch.sweepReloadPending
    sweepDivider := ch.sweepDivider
    sweepTargetPeriod := ch.sweepTargetPeriod
    period := ch.period
    timer := ch.timer }

/-- Assign the eleven fields from a record; `identity` is kept (R142). -/
def Channel.ofRecord (c : Identity) (r : Record) : Channel :=
  { identity := c
    period := r.period
    timer := r.timer
    dutyIndex := r.dutyIndex
    dutyPos := r.dutyPos
    sweepEnabled := r.sweepEnabled
    sweepNegate := r.sweepNegate
    sweepShift := r.sweepShift
    sweepDividerPeriod := r.sweepDividerPeriod
    sweepDivider := r.sweepDivider
    sweepReloadPending := r.sweepReloadPending
    sweepTargetPeriod := r.sweepTargetPeriod }

/-- The invariants of R37 that the field's types do not already hold: `timer <= 2048`, `1 <= sweepDividerPeriod <= 8`,
`sweepDivider <= 8`, and the target in `0..4094`, or the wrapped value, which only `First` can compute. Log 5. -/
def Record.inRange (cfg : Config) (c : Identity) (r : Record) : Bool :=
  decide (r.timer ≤ 2048) && decide (1 ≤ r.sweepDividerPeriod) && decide (r.sweepDividerPeriod ≤ 8) &&
    decide (r.sweepDivider ≤ 8) &&
    (decide (r.sweepTargetPeriod ≤ 4094) ||
      (decide (c = .first) && decide (r.sweepTargetPeriod = 2 ^ cfg.tw - 1)))

end Sys2Proof.Machine
end

