-- ==== Sys2Proof/Machine/RegisterWrites.lean ====
section
/-! DEFINITION. The family of the register writes, `W0` to `W3` (40_register_writes.md). -/

namespace Sys2Proof.Machine

/-- `W0` at one instance: halt flag first, then the whole byte to the envelope, then the duty index (R81, D18). -/
def Instance.writeDuty (cfg : Config) (b : Byte) (i : Instance) : Instance :=
  let sent := (i.emitCommand (.lenInit (haltFlag cfg b))).emitCommand (.envInit b)
  { sent with chan := { i.chan with dutyIndex := dutyField b } }

/-- `W1` at one instance (R83). -/
def Instance.writeSweep (b : Byte) (i : Instance) : Instance :=
  { i with chan := i.chan.initializeSweep b }

/-- `W2` at one instance: neither the timer nor the duty position is touched (R84). -/
def Instance.writePeriodLow (b : Byte) (i : Instance) : Instance :=
  { i with chan := { i.chan with period := withPeriodLow i.chan.period b } }

/-- `W3` at one instance: the timer is loaded from the period just assembled (R85). -/
def Instance.writePeriodHigh (b : Byte) (i : Instance) : Instance :=
  let loaded := i.emitCommand (.lenLoad (lengthField b))
  let period := withPeriodHigh i.chan.period b
  let restarted :=
    { loaded with chan := { i.chan with period := period, timer := period.toNat + 1, dutyPos := 0#3 } }
  restarted.emitCommand .envReset

/-- `W0` (R81). -/
def execW0 (c : Identity) (b : Byte) (s : State) : Host.Outcome State Fault Refusal :=
  .next (s.setInst c ((s.inst c).writeDuty s.config b))

/-- `W1` (R83). -/
def execW1 (c : Identity) (b : Byte) (s : State) : Host.Outcome State Fault Refusal :=
  .next (s.setInst c ((s.inst c).writeSweep b))

/-- `W2` (R84). -/
def execW2 (c : Identity) (b : Byte) (s : State) : Host.Outcome State Fault Refusal :=
  .next (s.setInst c ((s.inst c).writePeriodLow b))

/-- `W3` (R85). -/
def execW3 (c : Identity) (b : Byte) (s : State) : Host.Outcome State Fault Refusal :=
  .next (s.setInst c ((s.inst c).writePeriodHigh b))

end Sys2Proof.Machine
end

