-- ==== Sys2Proof/Machine/Reset.lean ====
section
/-! DEFINITION. Reset: `RST` (70_reset_and_hazards.md). -/

namespace Sys2Proof.Machine

/-- Every mutable field takes its value of R38; `identity` survives. No sample, no command; the ports' traces and the
value `vol` are not the channel's (R170, R172). -/
def Instance.restart (i : Instance) : Instance :=
  { i with chan := Channel.reset i.chan.identity }

/-- `RST`, to both instances (R56, R170). -/
def execRst (s : State) : Host.Outcome State Fault Refusal :=
  .next (s.both Instance.restart)

end Sys2Proof.Machine
end

