-- ==== Sys2Proof/Machine/Sequencer.lean ====
section
/-! DEFINITION. The duty/timer sequencer: `CYC` (41_sequencer.md). -/

namespace Sys2Proof.Machine

/-- One chip cycle at one instance: first the target is refreshed, committing nothing, then the timer steps (R100). -/
def Instance.cycle (cfg : Config) (stamp : Nat) (i : Instance) : Instance :=
  Instance.timerStep cfg stamp { i with chan := i.chan.recomputeTarget cfg false }

/-- `CYC`, to both instances; the samples of this chip cycle carry its number, counted from 1 (R56, R100, R104). Log 8. -/
def execCyc (s : State) : Host.Outcome State Fault Refusal :=
  .next (s.both (Instance.cycle s.config (s.cycleIndex + 1))).countCycle

end Sys2Proof.Machine
end

