-- ==== Sys2Proof/Machine/Snapshot.lean ====
section
/-! DEFINITION. The snapshot port: `SNAP` and `REST` (43_snapshot.md). -/

namespace Sys2Proof.Machine

/-- The record is answered; no Channel State changes, and a stale target is answered as it is (R141). -/
def Instance.snapshot (i : Instance) : Instance :=
  { i with records := i.records ++ [i.chan.toRecord] }

/-- The eleven fields are assigned from the record; nothing is sent or emitted (R142). -/
def Instance.restore (r : Record) (i : Instance) : Instance :=
  { i with chan := Channel.ofRecord i.chan.identity r }

/-- `SNAP` (R141). -/
def execSnap (c : Identity) (s : State) : Host.Outcome State Fault Refusal :=
  .next (s.setInst c (s.inst c).snapshot)

/-- `REST` (R142). A record that breaks the invariants of R37 is refused (D22). -/
def execRest (c : Identity) (s : State) : Host.Outcome State Fault Refusal :=
  if s.recordIn.inRange s.config (s.inst c).chan.identity then
    .next (s.setInst c ((s.inst c).restore s.recordIn))
  else .refused (.recordOutsideInvariants c)

end Sys2Proof.Machine
end

