-- ==== Sys2Proof/Machine/Sweep.lean ====
section
/-! DEFINITION. The sweep unit: `SWP` (42_sweep.md). -/

namespace Sys2Proof.Machine

/-- `TickSweep()`: the decision tree of R126. -/
def Channel.tickSweep (cfg : Config) (ch : Channel) : Channel :=
  if ch.sweepReloadPending then
    let applied :=
      if ch.sweepDivider = 0 && ch.sweepEnabled then ch.recomputeTarget cfg true else ch
    { applied with sweepDivider := ch.sweepDividerPeriod, sweepReloadPending := false }
  else if 0 < ch.sweepDivider then
    { ch with sweepDivider := ch.sweepDivider - 1 }
  else if ch.sweepEnabled then
    { ch.recomputeTarget cfg true with sweepDivider := ch.sweepDividerPeriod }
  else ch

/-- One sweep tick at one instance. -/
def Instance.tickSweep (cfg : Config) (i : Instance) : Instance :=
  { i with chan := i.chan.tickSweep cfg }

/-- `SWP`, to both instances (R56, R126). -/
def execSwp (s : State) : Host.Outcome State Fault Refusal :=
  .next (s.both (Instance.tickSweep s.config))

end Sys2Proof.Machine
end

