-- ==== Sys2Proof/Machine/Dispatch.lean ====
section
/-! DEFINITION. One arm per event, each a call of its meaning. -/

namespace Sys2Proof.Machine

def exec (i : Instr) (s : State) : Host.Outcome State Fault Refusal :=
  match i with
  | .w0 c b => Sys2Proof.Machine.execW0 c b s
  | .w1 c b => Sys2Proof.Machine.execW1 c b s
  | .w2 c b => Sys2Proof.Machine.execW2 c b s
  | .w3 c b => Sys2Proof.Machine.execW3 c b s
  | .cyc => Sys2Proof.Machine.execCyc s
  | .swp => Sys2Proof.Machine.execSwp s
  | .rst => Sys2Proof.Machine.execRst s
  | .snap c => Sys2Proof.Machine.execSnap c s
  | .rest c => Sys2Proof.Machine.execRest c s

end Sys2Proof.Machine
end

