-- ==== Sys2Proof/Machine/Fetch.lean ====
section
/-! DEFINITION. How the next event reaches the channel: the head of the input queue is taken off and its port values are
presented (R8, R34, R36). Log 2. -/

namespace Sys2Proof.Machine

/-- What the head of the queue asks the machine to do. -/
inductive Fetched where
  /-- Nothing is asked of a channel; the state goes on as given. -/
  | idle (s : State)
  /-- An event for the channel, and the state it runs in. -/
  | event (i : Instr) (s : State)
  /-- The model's boundary refuses the request (R156). -/
  | refuse (r : Refusal)
  deriving DecidableEq, Repr

/-- The entry is taken off the queue, and its `vol` values and record stand at the ports while it is processed. -/
def State.present (s : State) (e : Input) (later : List Input) : State :=
  { s with
    first := { s.first with vol := e.volFirst }
    second := { s.second with vol := e.volSecond }
    input := later
    recordIn := e.record }

/-- What one request amounts to, in the state that presents it. -/
def State.perform (s : State) : Request → Fetched
  | .word w =>
    match decodeWord w with
    | .event i => .event i s
    | .noEvent e => .refuse (.notAnEvent e)
  | .store addr b =>
    match routeStore s.config addr b with
    | some i => .event i s
    | none => .idle s
  | .load addr => if inWindows s.config addr then .refuse (.windowRead addr) else .idle s

/-- Fetch. With nothing in the queue the channel "simply holds its state" (R162). -/
def State.fetch (s : State) : Fetched :=
  match s.input with
  | [] => .idle s
  | e :: later => (s.present e later).perform e.request

/-- The entry that carries a word and leaves the ports' values as they are. -/
def State.inputOfWord (s : State) (w : EventWord) : Input :=
  { request := .word w, volFirst := s.first.vol, volSecond := s.second.vol, record := s.recordIn }

end Sys2Proof.Machine
end

