-- ==== Sys2Proof/Machine/Step.lean ====
section
/-! DEFINITION. One step: the next event of the input is processed to completion (R8). -/

namespace Sys2Proof.Machine

def step (s : State) : Host.Outcome State Fault Refusal :=
  match s.fetch with
  | .idle s' => .next s'
  | .event i s' => exec i s'
  | .refuse r => .refused r

/-- The state with the word `w` at the head of the input queue, where `step` takes its next event. The port values it
carries are those already presented, so that nothing else changes. Log 3. -/
def State.withFetchWord (s : State) (nbits w : Nat) : State :=
  { s with input := s.inputOfWord (BitVec.ofNat 16 (w % 2 ^ nbits)) :: s.input }

end Sys2Proof.Machine
end

