-- ==== Sys2Proof/Machine/Driver.lean ====
section
/-! DEFINITION. What the spec says about the sequences the driver delivers: the order inside one chip cycle (R55), a wide
store as byte stores (R42), and the pseudo-operations of the textual form (R71). The machine's step uses none of these:
the channel takes whatever sequence it is given (R156, R181). -/

namespace Sys2Proof.Machine

/-- The request that carries an event's word. -/
def requestOf (i : Instr) : Request := .word (encode i)

/-- A store wider than a byte is one byte store after another, in the order the bus issues them (R42, D6). -/
def byteStores (bytes : List (Nat × Byte)) : List Request :=
  bytes.map fun x => .store x.1 x.2

/-- One chip cycle: all stores in bus order, then the sweep tick if one is due, then `CYCLE` (R55, D6). -/
def chipCycle (stores : List (Nat × Byte)) (tickDue : Bool) : List Request :=
  byteStores stores ++ (if tickDue then [requestOf .swp] else []) ++ [requestOf .cyc]

/-- The pseudo-operations of R71, operands as the text has them. -/
inductive Pseudo where
  /-- `CYC n`. -/
  | cycles (n : Nat)
  /-- `SWP n`. -/
  | ticks (n : Nat)
  /-- `DUTY inst, d, e`. -/
  | duty (c : Identity) (d e : Nat)
  /-- `SWEEP inst, E, P, N, S`. -/
  | sweep (c : Identity) (enable divider negate shift : Nat)
  /-- `SETP inst, p, n`. -/
  | setPeriod (c : Identity) (p n : Nat)
  deriving DecidableEq, Repr

/-- The operand ranges of R71. -/
def Pseudo.wf : Pseudo → Bool
  | .cycles _ => true
  | .ticks _ => true
  | .duty _ d e => decide (d ≤ 3) && decide (e ≤ 63)
  | .sweep _ en p n s => decide (en ≤ 1) && decide (p ≤ 7) && decide (n ≤ 1) && decide (s ≤ 7)
  | .setPeriod _ p n => decide (p ≤ 2047) && decide (n ≤ 31)

/-- The expansions of R71. -/
def Pseudo.expand : Pseudo → List Instr
  | .cycles n => List.replicate n .cyc
  | .ticks n => List.replicate n .swp
  | .duty c d e => [.w0 c (BitVec.ofNat 8 (d <<< 6 ||| e))]
  | .sweep c en p n s => [.w1 c (BitVec.ofNat 8 (en <<< 7 ||| p <<< 4 ||| n <<< 3 ||| s))]
  | .setPeriod c p n =>
    [.w2 c (BitVec.ofNat 8 (p % 256)), .w3 c (BitVec.ofNat 8 (n <<< 3 ||| p / 256))]

end Sys2Proof.Machine
end

