-- ==== Sys2Proof/Safety.lean ====
section
/-! DEFINITION. What the statements say about states and runs: the invariants of R37, runs of several events, and the
relations between two runs. -/

namespace Sys2Proof.Machine

/-! ## The invariants (R13, R35, R37) -/

/-- R37 for the instance in slot `c`, with R13 (`identity` is the slot's own) and R35 (a sample is a `VW`-bit number,
stamped with a chip cycle that has run). `period`, `dutyIndex`, `dutyPos` and `sweepShift` are in range by their types. -/
structure Instance.Inv (cfg : Config) (now : Nat) (c : Identity) (i : Instance) : Prop where
  identity : i.chan.identity = c
  timer : i.chan.timer ≤ 2048
  dividerPeriod_pos : 1 ≤ i.chan.sweepDividerPeriod
  dividerPeriod_le : i.chan.sweepDividerPeriod ≤ 8
  divider : i.chan.sweepDivider ≤ 8
  target : i.chan.sweepTargetPeriod ≤ 4094 ∨
    (c = .first ∧ i.chan.sweepTargetPeriod = 2 ^ cfg.tw - 1)
  samples : ∀ x ∈ i.samples, x.amplitude < 2 ^ cfg.vw ∧ x.atCycle ≤ now

/-- The invariant of the pair. -/
structure State.Inv (s : State) : Prop where
  first : Instance.Inv s.config s.cycleIndex .first s.first
  second : Instance.Inv s.config s.cycleIndex .second s.second

/-! ## Runs -/

/-- The events one after another, in the order given (R8, R49), stopping at the first that gives no next state. -/
def execAll : List Instr → State → Host.Outcome State Fault Refusal
  | [], s => .next s
  | i :: later, s =>
    match exec i s with
    | .next t => execAll later t
    | .fault r => .fault r
    | .refused r => .refused r

/-- The value of a pair that one instance sees. -/
def volOf (v : Nat × Nat) : Identity → Nat
  | .first => v.1
  | .second => v.2

/-- The state with other values of `vol` presented to the two instances. -/
def State.withVols (s : State) (v : Nat × Nat) : State :=
  { s with first := { s.first with vol := v.1 }, second := { s.second with vol := v.2 } }

/-- Chip cycles, the collaborators presenting new values before each (R34): `vol` is free from one to the next. -/
def cyclesWith : List (Nat × Nat) → State → Host.Outcome State Fault Refusal
  | [], s => .next s
  | v :: later, s =>
    match exec .cyc (s.withVols v) with
    | .next t => cyclesWith later t
    | .fault r => .fault r
    | .refused r => .refused r

/-- A run is safe when no step of it is a fault or a refusal. -/
def SafeFor (n : Nat) (s : State) : Prop := ∃ t, Host.Core.run Sys2Proof.core n s = .next t

/-! ## Words for the statements -/

/-- The channel emits only zeros at a `Clock` in these fields (R102, R179): the period is below 8, or the target of the
present fields is above 2047. -/
def Channel.SilentNow (cfg : Config) (ch : Channel) : Prop :=
  ch.period.toNat < 8 ∨ 2047 < ch.freshTarget cfg

/-- A target stored at the width `tw`, as a target of the width `tw'` (R125): the wrapped value `2^tw - 1` becomes
`2^tw' - 1`, every other value stays. -/
def retarget (tw tw' target : Nat) : Nat := if target = 2 ^ tw - 1 then 2 ^ tw' - 1 else target

/-- The channel with its stored target read as a target of another width. -/
def Channel.retargeted (tw tw' : Nat) (ch : Channel) : Channel :=
  { ch with sweepTargetPeriod := retarget tw tw' ch.sweepTargetPeriod }

/-- The same chip built with the target width `12 + k` (R125). -/
def State.withTargetWidth (s : State) (k : Nat) : State :=
  { s with
    config := { s.config with twExtra := k }
    first := { s.first with chan := s.first.chan.retargeted s.config.tw (12 + k) }
    second := { s.second with chan := s.second.chan.retargeted s.config.tw (12 + k) } }

/-- The amplitudes of a trace, without their stamps. -/
def amplitudes (xs : List Sample) : List Nat := xs.map Sample.amplitude

end Sys2Proof.Machine
end

