-- ==== Sys2Proof/Certificates/Slice0/Obligations.lean ====
section
/-! DEFINITION. The statements about the model, for the provers. Each docstring names the rule it comes from, and says so
where a clause is the spec's own decision or the model's choice. Every statement about a state holds for every value of
the open parameters (R5), because the state holds them. -/

open Sys2Proof Sys2Proof.Machine

/-! ## Encoding -/

/-- The decoder reads back every event from the word the encoder gives it: no operand bit is dropped (R66, R72; the event
word is the spec's own notation, D12). -/
def Obligations.DecodeOfEncode : Prop :=
  ∀ i : Instr, decodeWord (encode i) = .event i

/-- Every word that spells an event is the word of that event: no two words spell the same one (R66, R72; the event word is
the spec's own notation, D12). -/
def Obligations.EncodeOfDecode : Prop :=
  ∀ (w : EventWord) (i : Instr), decodeWord w = .event i → encode i = w

/-- R68: the words that spell no event are exactly the four kinds it lists, and every write transaction spells one. The
event word is the spec's own notation (D12). -/
def Obligations.ReservedWordsAreRefused : Prop :=
  (∀ w : EventWord,
    (∃ e, decodeWord w = .noEvent e) ↔
      6 ≤ (w.extractLsb' 12 4).toNat ∨
      w.getLsbD 11 = true ∨
      ((1 ≤ (w.extractLsb' 12 4).toNat ∧ (w.extractLsb' 12 4).toNat ≤ 3) ∧ w.extractLsb' 0 12 ≠ 0#12) ∨
      (((w.extractLsb' 12 4).toNat = 4 ∨ (w.extractLsb' 12 4).toNat = 5) ∧
        (w.getLsbD 11 = true ∨ w.extractLsb' 0 10 ≠ 0#10))) ∧
  (∀ (c : BitVec 1) (o : BitVec 2) (b : Byte), ∃ i, decodeWord (0#5 ++ c ++ o ++ b) = .event i)

/-- R72: a word spells an event of a row exactly when it matches the row's match and mask, and no word matches two rows. The
event word is the spec's own notation (D12). -/
def Obligations.OpcodeTableIsTheDecoder : Prop :=
  (∀ (w : EventWord) (j : Instr),
    w &&& (opcodeRow j).mask = (opcodeRow j).value ↔
      ∃ i, decodeWord w = .event i ∧ opcodeRow i = opcodeRow j) ∧
  (∀ (w : EventWord) (j k : Instr),
    w &&& (opcodeRow j).mask = (opcodeRow j).value → w &&& (opcodeRow k).mask = (opcodeRow k).value →
      opcodeRow j = opcodeRow k)

/-- The event words that the programs of 95_test_vectors.md write out, one of each row. -/
def Obligations.WordsOfTheSpecDecode : Prop :=
  decodeWord 0x00BF#16 = .event (.w0 .first 0xBF#8) ∧
  decodeWord 0x0581#16 = .event (.w1 .second 0x81#8) ∧
  decodeWord 0x0208#16 = .event (.w2 .first 0x08#8) ∧
  decodeWord 0x0704#16 = .event (.w3 .second 0x04#8) ∧
  decodeWord 0x1000#16 = .event .cyc ∧
  decodeWord 0x2000#16 = .event .swp ∧
  decodeWord 0x3000#16 = .event .rst ∧
  decodeWord 0x4400#16 = .event (.snap .second) ∧
  decodeWord 0x5400#16 = .event (.rest .second)

/-! ## One step -/

/-- A step takes the head of the input off the queue, presents its `vol` values and its record, and runs the event its word
spells. Nothing else changes before the event runs. The queue is the model's own (log 2). -/
def Obligations.StepRunsTheDecodedEvent : Prop :=
  ∀ (s : State) (e : Input) (later : List Input) (w : EventWord) (i : Instr),
    s.input = e :: later → e.request = .word w → decodeWord w = .event i →
      step s = exec i (s.present e later) ∧
      s.present e later =
        { s with
          first := { s.first with vol := e.volFirst }
          second := { s.second with vol := e.volSecond }
          input := later
          recordIn := e.record }

/-- A word that spells no event and a load from a window are refused, each under its own name (R68, R46; refusing the load
is the spec's decision D8). That they are requests in a queue is the model's own (logs 2 and 11). -/
def Obligations.StepRefusesAtItsBoundary : Prop :=
  ∀ (s : State) (e : Input) (later : List Input), s.input = e :: later →
    (∀ w x, e.request = .word w → decodeWord w = .noEvent x → step s = .refused (.notAnEvent x)) ∧
    (∀ a, e.request = .load a → s.config.base ≤ a → a < s.config.base + 8 →
      step s = .refused (.windowRead a))

/-- With no event delivered the channel holds its state (R162, R8). That an empty queue is a step is the model's (log 2). -/
def Obligations.StepOnEmptyInputHoldsTheState : Prop :=
  ∀ s : State, s.input = [] → step s = .next s

/-- A byte store to `BASE + o` is the write at offset `o` of `First`, to `BASE + 4 + o` of `Second` (R44; which window is
`First`'s is the spec's decision D7). That a store is a request in the queue is the model's own (log 11). -/
def Obligations.StoreReachesOneInstance : Prop :=
  ∀ (s : State) (e : Input) (later : List Input) (o : Nat) (b : Byte) (c : Identity),
    s.input = e :: later → o < 4 →
    e.request = .store (s.config.base + (match c with | .first => 0 | .second => 4) + o) b →
      step s = exec (match o with | 0 => .w0 c b | 1 => .w1 c b | 2 => .w2 c b | _ => .w3 c b)
        (s.present e later)

/-- A store or a load outside `BASE .. BASE + 7` changes nothing in either instance: the step only takes the entry off the
queue and presents its port values. For a store this is R47. That a load is an entry of the queue, and that the step goes on
at one outside the windows, is the model's choice (log 11, DESIGN CHOICE): R46 speaks only of reads of the windows. -/
def Obligations.AccessOutsideTheWindowsChangesNoChannel : Prop :=
  ∀ (s : State) (e : Input) (later : List Input) (a : Nat),
    s.input = e :: later → (a < s.config.base ∨ s.config.base + 8 ≤ a) →
    ((∃ b, e.request = .store a b) ∨ e.request = .load a) →
      step s = .next (s.present e later) ∧
      ∀ c, ((s.present e later).inst c).chan = (s.inst c).chan ∧
        ((s.present e later).inst c).samples = (s.inst c).samples ∧
        ((s.present e later).inst c).commands = (s.inst c).commands ∧
        ((s.present e later).inst c).records = (s.inst c).records

/-- Placing a word at the head of the queue makes the very next step run its event in the state as it was (log 3). -/
def Obligations.FetchedWordRunsInTheSameState : Prop :=
  ∀ (s : State) (w : Nat) (i : Instr), decodeTableWord 16 w = some i →
    step (s.withFetchWord 16 w) = exec i s

/-! ## The register writes -/

/-- R81: `W0` sets the duty index from bits 7:6 and sends the halt flag and then the whole byte; nothing else changes. The
order of the two commands is the spec's decision D18. -/
def Obligations.W0SetsDutyAndForwardsTheByte : Prop :=
  ∀ (c : Identity) (b : Byte) (s : State),
    decodeWord (0b00000#5 ++ bitOfIdentity c ++ 0b00#2 ++ b) = .event (.w0 c b) ∧
    exec (.w0 c b) s =
      .next (s.setInst c
        { s.inst c with
          chan := { (s.inst c).chan with dutyIndex := b.extractLsb' 6 2 }
          commands := (s.inst c).commands ++ [.lenInit (b.getLsbD s.config.haltBit), .envInit b] })

/-- R82: `W1` sets the four sweep fields from the byte and the pending flag, whatever the byte; nothing else changes. -/
def Obligations.W1SetsUpTheSweep : Prop :=
  ∀ (c : Identity) (b : Byte) (s : State),
    decodeWord (0b00000#5 ++ bitOfIdentity c ++ 0b01#2 ++ b) = .event (.w1 c b) ∧
    exec (.w1 c b) s =
      .next (s.setInst c
        { s.inst c with
          chan := { (s.inst c).chan with
            sweepEnabled := b.getLsbD 7
            sweepNegate := b.getLsbD 3
            sweepShift := b.extractLsb' 0 3
            sweepDividerPeriod := (b.extractLsb' 4 3).toNat + 1
            sweepReloadPending := true } })

/-- R84: `W2` replaces the low 8 bits of the period, keeps its high 3, and changes nothing else. -/
def Obligations.W2ReplacesThePeriodLowByte : Prop :=
  ∀ (c : Identity) (b : Byte) (s : State),
    decodeWord (0b00000#5 ++ bitOfIdentity c ++ 0b10#2 ++ b) = .event (.w2 c b) ∧
    ∃ p : BitVec 11,
      p.toNat = (s.inst c).chan.period.toNat / 256 * 256 + b.toNat ∧
      exec (.w2 c b) s =
        .next (s.setInst c { s.inst c with chan := { (s.inst c).chan with period := p } })

/-- R85: `W3` replaces the high 3 bits of the period, restarts the timer at the new period plus one and the duty position at
0, and sends `LenLoad` and `EnvReset` in that order (also the spec's decision D18); nothing else changes. -/
def Obligations.W3RestartsTheChannel : Prop :=
  ∀ (c : Identity) (b : Byte) (s : State),
    decodeWord (0b00000#5 ++ bitOfIdentity c ++ 0b11#2 ++ b) = .event (.w3 c b) ∧
    ∃ p : BitVec 11,
      p.toNat = b.toNat % 8 * 256 + (s.inst c).chan.period.toNat % 256 ∧
      exec (.w3 c b) s =
        .next (s.setInst c
          { s.inst c with
            chan := { (s.inst c).chan with period := p, timer := p.toNat + 1, dutyPos := 0#3 }
            commands := (s.inst c).commands ++ [.lenLoad (b.extractLsb' 3 5), .envReset] })

/-- R86, the frame of the four writes: the fields and traces a write does not name keep their values, in the addressed
instance, and the other instance, the parameters, the queue, the record input and the cycle cursor keep theirs. -/
def Obligations.RegisterWritesFrame : Prop :=
  ∀ (c : Identity) (b : Byte) (i : Instr) (s t : State),
    (i = .w0 c b ∨ i = .w1 c b ∨ i = .w2 c b ∨ i = .w3 c b) → exec i s = .next t →
      let a := (s.inst c).chan
      let z := (t.inst c).chan
      z.identity = a.identity ∧ z.sweepDivider = a.sweepDivider ∧ z.sweepTargetPeriod = a.sweepTargetPeriod ∧
      (t.inst c).samples = (s.inst c).samples ∧ (t.inst c).records = (s.inst c).records ∧
      (t.inst c).vol = (s.inst c).vol ∧
      (i ≠ .w0 c b → z.dutyIndex = a.dutyIndex) ∧
      (i ≠ .w1 c b → z.sweepEnabled = a.sweepEnabled ∧ z.sweepNegate = a.sweepNegate ∧
        z.sweepShift = a.sweepShift ∧ z.sweepDividerPeriod = a.sweepDividerPeriod ∧
        z.sweepReloadPending = a.sweepReloadPending) ∧
      (i ≠ .w3 c b → z.timer = a.timer ∧ z.dutyPos = a.dutyPos) ∧
      (i ≠ .w2 c b → i ≠ .w3 c b → z.period = a.period) ∧
      (i = .w2 c b → z.period.toNat / 256 = a.period.toNat / 256) ∧
      (i = .w3 c b → z.period.toNat % 256 = a.period.toNat % 256) ∧
      (i ≠ .w0 c b → i ≠ .w3 c b → (t.inst c).commands = (s.inst c).commands) ∧
      (∀ d, d ≠ c → t.inst d = s.inst d) ∧
      t.config = s.config ∧ t.input = s.input ∧ t.recordIn = s.recordIn ∧ t.cycleIndex = s.cycleIndex

/-- From R23: every `W1` sets the pending flag, several leave only the last one's fields, and the next sweep tick clears it.
That one tick clears it at both instances is the spec's decision D19, followed by choice (log 1, DESIGN CHOICE). -/
def Obligations.ReloadFlagIsSetByW1AndClearedByTheTick : Prop :=
  (∀ (c : Identity) (b b' : Byte) (s : State), ∃ t u,
    exec (.w1 c b) s = .next t ∧ (t.inst c).chan.sweepReloadPending = true ∧
    exec (.w1 c b') t = .next u ∧ exec (.w1 c b') s = .next u) ∧
  (∀ s : State, ∃ t, exec .swp s = .next t ∧ ∀ c, (t.inst c).chan.sweepReloadPending = false)

/-- R43: `W2` is idempotent, and `W0` is as far as the channel's own state goes. -/
def Obligations.W2AndW0AreIdempotentOnTheChannel : Prop :=
  ∀ (c : Identity) (b : Byte) (s t : State),
    (exec (.w2 c b) s = .next t → exec (.w2 c b) t = .next t) ∧
    (exec (.w0 c b) s = .next t →
      ∃ u, exec (.w0 c b) t = .next u ∧ ∀ d, (u.inst d).chan = (t.inst d).chan)

/-- R175: with `W3` before `W2` the first count uses the old low byte; with `W2` before `W3` it uses the new one. Both orders
leave the same period. -/
def Obligations.WriteOrderOfThePeriodHalves : Prop :=
  ∀ (c : Identity) (lo hi : Byte) (s : State), ∃ t u,
    execAll [.w3 c hi, .w2 c lo] s = .next t ∧ execAll [.w2 c lo, .w3 c hi] s = .next u ∧
    (t.inst c).chan.period = (u.inst c).chan.period ∧
    (u.inst c).chan.period.toNat = hi.toNat % 8 * 256 + lo.toNat ∧
    (t.inst c).chan.timer = hi.toNat % 8 * 256 + (s.inst c).chan.period.toNat % 256 + 1 ∧
    (u.inst c).chan.timer = hi.toNat % 8 * 256 + lo.toNat + 1

/-! ## The sequencer -/

/-- R100 and R101 before expiry: `CYC` stores the target of the present fields and counts the timer down, and changes
nothing else of the instance. The comparison is the spec's decision D3. -/
def Obligations.CycleBeforeExpiryCountsDown : Prop :=
  ∀ (s : State) (c : Identity), 1 < (s.inst c).chan.timer →
    ∃ t, exec .cyc s = .next t ∧
      t.inst c =
        { s.inst c with
          chan := { (s.inst c).chan with
            sweepTargetPeriod :=
              sweepTarget s.config (s.inst c).chan.identity (s.inst c).chan.period (s.inst c).chan.sweepShift
                (s.inst c).chan.sweepNegate
            timer := (s.inst c).chan.timer - 1 } }

/-- R100, R101, R103, R108 at expiry: `CYC` stores the fresh target, reloads the timer with `period + 1`, steps the duty
position down modulo 8, and emits one sample: 0 if the period is below 8 or the fresh target above 2047, else the pattern
bit at the new position times the volume. Nothing else of the instance changes. A timer of 0 expires (D3); that
the wrapped target of `First` is above 2047 is D4 (log 9); the stamp is the number of the chip cycle (log 8, D20). -/
def Obligations.CycleAtExpiryClocks : Prop :=
  ∀ (s : State) (c : Identity), (s.inst c).chan.timer ≤ 1 →
    ∃ t, exec .cyc s = .next t ∧ ∃ q : BitVec 3, q.toNat = ((s.inst c).chan.dutyPos.toNat + 7) % 8 ∧
      let target :=
        sweepTarget s.config (s.inst c).chan.identity (s.inst c).chan.period (s.inst c).chan.sweepShift
          (s.inst c).chan.sweepNegate
      t.inst c =
        { s.inst c with
          chan := { (s.inst c).chan with
            sweepTargetPeriod := target
            timer := (s.inst c).chan.period.toNat + 1
            dutyPos := q }
          samples := (s.inst c).samples ++
            [⟨if (s.inst c).chan.period.toNat < 8 ∨ 2047 < target then 0
              else (dutyBit s.config (s.inst c).chan.dutyIndex q).toNat * ((s.inst c).vol % 2 ^ s.config.vw),
              s.cycleIndex + 1⟩] }

/-- The frame of `CYC` (R100): period, duty index, the sweep fields but the target, and every trace but the samples keep
their values in both instances; around them only the cycle cursor moves (log 8). -/
def Obligations.CycleFrame : Prop :=
  ∀ s : State, ∃ t, exec .cyc s = .next t ∧
    t.config = s.config ∧ t.input = s.input ∧ t.recordIn = s.recordIn ∧ t.cycleIndex = s.cycleIndex + 1 ∧
    ∀ c,
      { (t.inst c).chan with
        sweepTargetPeriod := (s.inst c).chan.sweepTargetPeriod
        timer := (s.inst c).chan.timer
        dutyPos := (s.inst c).chan.dutyPos } = (s.inst c).chan ∧
      (t.inst c).vol = (s.inst c).vol ∧ (t.inst c).commands = (s.inst c).commands ∧
      (t.inst c).records = (s.inst c).records

/-- R179 with R102, R103 and R104: at an expiring `CYC` the sample is 0 if the period is below 8, or the sum overflows when
adding, or `First` subtracts with shift 0 or period 0; in every other case it is the pattern bit times the volume. The last
of the three causes rests on the spec's decision D4 (log 9). That a timer of at most 1 expires (R101) is the spec's decision
D3, and the stamp `cycleIndex + 1` is the model's choice (log 8, D20). -/
def Obligations.CausesOfSilenceAtAClock : Prop :=
  ∀ (s : State) (c : Identity), (s.inst c).chan.timer ≤ 1 → ∃ t a, exec .cyc s = .next t ∧
    (t.inst c).samples = (s.inst c).samples ++ [⟨a, s.cycleIndex + 1⟩] ∧
    let ch := (s.inst c).chan
    let silent : Prop :=
      ch.period.toNat < 8 ∨
      (ch.sweepNegate = false ∧ 2047 < ch.period.toNat + ch.period.toNat / 2 ^ ch.sweepShift.toNat) ∨
      (ch.identity = .first ∧ ch.sweepNegate = true ∧ (ch.sweepShift = 0#3 ∨ ch.period = 0#11))
    (silent → a = 0) ∧
    (¬ silent → a = (dutyBit s.config ch.dutyIndex (t.inst c).chan.dutyPos).toNat * ((s.inst c).vol % 2 ^ s.config.vw))

/-- From R105, with R101 and R104: the one sample of an expiring `CYC` is 0 or the volume, and fits `VW` bits. That a timer
of at most 1 expires is the spec's decision D3, and the stamp `cycleIndex + 1` is the model's choice (log 8, D20). -/
def Obligations.SampleIsZeroOrTheVolume : Prop :=
  ∀ (s : State) (c : Identity), (s.inst c).chan.timer ≤ 1 → ∃ t a, exec .cyc s = .next t ∧
    (t.inst c).samples = (s.inst c).samples ++ [⟨a, s.cycleIndex + 1⟩] ∧
    (a = 0 ∨ a = (s.inst c).vol % 2 ^ s.config.vw) ∧ a < 2 ^ s.config.vw ∧
    ((t.inst c).chan.muted = false →
      a = (if dutyBit s.config (t.inst c).chan.dutyIndex (t.inst c).chan.dutyPos then 1 else 0) *
        ((s.inst c).vol % 2 ^ s.config.vw))

/-- R106: from a reload on, with the period held at `p`, `m` chip cycles run `Clock` `m / (p + 1)` times, whatever volumes
are presented; eight clocks bring the duty position round. The expiry test (R101) is the spec's decision D3. -/
def Obligations.ClockRunsEveryPeriodPlusOneCycles : Prop :=
  ∀ (s : State) (c : Identity) (vs : List (Nat × Nat)),
    (s.inst c).chan.timer = (s.inst c).chan.period.toNat + 1 →
    ∃ t, cyclesWith vs s = .next t ∧
      let p := (s.inst c).chan.period.toNat
      (t.inst c).chan.period = (s.inst c).chan.period ∧
      (t.inst c).chan.timer = p + 1 - vs.length % (p + 1) ∧
      (t.inst c).chan.dutyPos.toNat = ((s.inst c).chan.dutyPos.toNat + 7 * (vs.length / (p + 1))) % 8 ∧
      (t.inst c).samples.length = (s.inst c).samples.length + vs.length / (p + 1)

/-- R107: after a `W3`, the next eight clocks of an unmuted channel sound positions 7, 6, 5, 4, 3, 2, 1, 0 in that order.
The expiry test (R101) is the spec's decision D3; which channels are unmuted rests on D4 (log 9) where the target of `First`
wraps. -/
def Obligations.WaveformAfterRestart : Prop :=
  ∀ (s u : State) (c : Identity) (b : Byte) (v : Nat × Nat), exec (.w3 c b) s = .next u →
    ¬ (u.inst c).chan.SilentNow u.config →
    ∃ t, cyclesWith (List.replicate (8 * ((u.inst c).chan.period.toNat + 1)) v) u = .next t ∧
      amplitudes (t.inst c).samples = amplitudes (s.inst c).samples ++
        [7#3, 6#3, 5#3, 4#3, 3#3, 2#3, 1#3, 0#3].map fun q =>
          (dutyBit s.config (s.inst c).chan.dutyIndex q).toNat *
            (volOf v c % 2 ^ s.config.vw)

/-- R25 with R107 and S7: with a waveform table as R25 constrains it and a volume that is not 0, one full waveform of an
unmuted channel has 1, 2, 4 or 6 samples that are not 0, by the duty index. The expiry test (R101) is the spec's decision
D3; which channels are unmuted rests on D4 (log 9) where the target of `First` wraps. -/
def Obligations.FullWaveformHasItsDutyFraction : Prop :=
  ∀ (s u : State) (c : Identity) (b : Byte) (v : Nat × Nat), exec (.w3 c b) s = .next u →
    s.config.wf = true → ¬ (u.inst c).chan.SilentNow u.config →
    volOf v c % 2 ^ s.config.vw ≠ 0 →
    ∃ t, cyclesWith (List.replicate (8 * ((u.inst c).chan.period.toNat + 1)) v) u = .next t ∧
      ((amplitudes (t.inst c).samples).drop (s.inst c).samples.length).countP (fun a => a != 0) =
        match (s.inst c).chan.dutyIndex.toNat with | 0 => 1 | 1 => 2 | 2 => 4 | _ => 6

/-! ## The sweep unit -/

/-- R123: the target when adding, when `Second` subtracts, and when `First` subtracts; the wrapped value is the spec's
decision D4, followed by choice (log 9, DESIGN CHOICE). -/
def Obligations.TargetValues : Prop :=
  ∀ (cfg : Config) (p : BitVec 11) (k : BitVec 3),
    let delta := p.toNat / 2 ^ k.toNat
    (∀ c, sweepTarget cfg c p k false = p.toNat + delta) ∧
    sweepTarget cfg .second p k true = p.toNat - delta ∧
    ((k = 0#3 ∨ p = 0#11) → sweepTarget cfg .first p k true = 2 ^ cfg.tw - 1) ∧
    (¬ (k = 0#3 ∨ p = 0#11) → sweepTarget cfg .first p k true = p.toNat - delta - 1)

/-- From R122 and R123: when negating, the target of `First` is the target of `Second` minus 1, modulo `2^TW`; when not
negating the two are the same. R122 itself speaks of the difference 1; the wrap modulo `2^TW` is the spec's decision D4,
followed by choice (log 9, DESIGN CHOICE). -/
def Obligations.FirstSubtractsOneMore : Prop :=
  ∀ (cfg : Config) (p : BitVec 11) (k : BitVec 3),
    (sweepTarget cfg .first p k true + 1) % 2 ^ cfg.tw = sweepTarget cfg .second p k true ∧
    (sweepTarget cfg .first p k true : Int) =
      ((p.toNat : Int) - (p.toNat / 2 ^ k.toNat : Nat) - 1) % 2 ^ cfg.tw ∧
    (sweepTarget cfg .second p k true : Int) = (p.toNat : Int) - (p.toNat / 2 ^ k.toNat : Nat) ∧
    sweepTarget cfg .first p k false = sweepTarget cfg .second p k false

/-- R121 with the guard of R124: a recompute always stores the target, changes the period only when asked to apply with a
shift above 0, a period of at least 8 and a target of at most 2047, then to the target, and touches no other field. -/
def Obligations.RecomputeStoresTheTargetAndGuardsTheCommit : Prop :=
  ∀ (cfg : Config) (apply : Bool) (ch : Channel),
    let target := sweepTarget cfg ch.identity ch.period ch.sweepShift ch.sweepNegate
    let z := ch.recomputeTarget cfg apply
    z = { ch with sweepTargetPeriod := target, period := z.period } ∧
    ((apply = true ∧ 0 < ch.sweepShift.toNat ∧ 8 ≤ ch.period.toNat ∧ target ≤ 2047) →
      z.period.toNat = target) ∧
    (¬ (apply = true ∧ 0 < ch.sweepShift.toNat ∧ 8 ≤ ch.period.toNat ∧ target ≤ 2047) →
      z.period = ch.period)

/-- From R126 and R56: the decision tree of the sweep tick, branch by branch, at both instances. That one tick reaches both
is the spec's decision D19, followed by choice (log 1, DESIGN CHOICE). -/
def Obligations.SweepTickDecisionTree : Prop :=
  decodeWord 0x2000#16 = .event .swp ∧
  ∀ s : State, ∃ t, exec .swp s = .next t ∧
    t.config = s.config ∧ t.input = s.input ∧ t.recordIn = s.recordIn ∧ t.cycleIndex = s.cycleIndex ∧
    ∀ c,
      let ch := (s.inst c).chan
      let applied := ch.recomputeTarget s.config true
      t.inst c = { s.inst c with chan := (t.inst c).chan } ∧
      (ch.sweepReloadPending = true → ch.sweepDivider = 0 → ch.sweepEnabled = true →
        (t.inst c).chan =
          { applied with sweepDivider := ch.sweepDividerPeriod, sweepReloadPending := false }) ∧
      (ch.sweepReloadPending = true → (ch.sweepDivider ≠ 0 ∨ ch.sweepEnabled = false) →
        (t.inst c).chan =
          { ch with sweepDivider := ch.sweepDividerPeriod, sweepReloadPending := false }) ∧
      (ch.sweepReloadPending = false → 0 < ch.sweepDivider →
        (t.inst c).chan = { ch with sweepDivider := ch.sweepDivider - 1 }) ∧
      (ch.sweepReloadPending = false → ch.sweepDivider = 0 → ch.sweepEnabled = true →
        (t.inst c).chan = { applied with sweepDivider := ch.sweepDividerPeriod }) ∧
      (ch.sweepReloadPending = false → ch.sweepDivider = 0 → ch.sweepEnabled = false →
        (t.inst c).chan = ch)

/-- The frame of `SWP` (R126): it never touches the timer or the duty position and emits nothing; of the channel only the
divider, the pending flag, the target and the period can change. It holds at both instances, which one tick reaches (D19,
log 1). -/
def Obligations.SweepTickFrame : Prop :=
  ∀ s t : State, exec .swp s = .next t →
    t.config = s.config ∧ t.input = s.input ∧ t.recordIn = s.recordIn ∧ t.cycleIndex = s.cycleIndex ∧
    ∀ c,
      { t.inst c with chan := (s.inst c).chan } = s.inst c ∧
      { (t.inst c).chan with
        sweepDivider := (s.inst c).chan.sweepDivider
        sweepReloadPending := (s.inst c).chan.sweepReloadPending
        sweepTargetPeriod := (s.inst c).chan.sweepTargetPeriod
        period := (s.inst c).chan.period } = (s.inst c).chan

/-- R127: with the sweep enabled and no further `W1`, from a reload on, `n` sweep ticks apply the sweep `n /
(sweepDividerPeriod + 1)` times. That each tick reaches the instance, whichever it is, is the spec's decision D19 (log 1).
-/
def Obligations.SweepAppliesEveryDividerPeriodPlusOneTicks : Prop :=
  ∀ (s : State) (c : Identity) (n : Nat),
    (s.inst c).chan.sweepEnabled = true → (s.inst c).chan.sweepReloadPending = false →
    (s.inst c).chan.sweepDivider = (s.inst c).chan.sweepDividerPeriod →
    ∃ t, execAll (List.replicate n .swp) s = .next t ∧
      let d := (s.inst c).chan.sweepDividerPeriod
      (t.inst c).chan =
        { (Channel.recomputeTarget s.config true)^[n / (d + 1)] (s.inst c).chan with
          sweepDivider := d - n % (d + 1) }

/-- R128: a `W1` that enables the sweep, then a tick: with the divider at 0 the sweep is applied on that tick with the new
fields, before the divider reloads; with a running divider nothing is applied and the divider reloads all the same. That the
tick reaches the instance, whichever it is, is the spec's decision D19 (log 1). -/
def Obligations.W1ThenTickAppliesOnlyAtDividerZero : Prop :=
  ∀ (s : State) (c : Identity) (b : Byte), b.getLsbD 7 = true → ∃ u t,
    exec (.w1 c b) s = .next u ∧ execAll [.w1 c b, .swp] s = .next t ∧
    (t.inst c).chan.sweepDivider = (b.extractLsb' 4 3).toNat + 1 ∧
    (t.inst c).chan.sweepReloadPending = false ∧
    ((s.inst c).chan.sweepDivider = 0 →
      (t.inst c).chan.period = ((u.inst c).chan.recomputeTarget s.config true).period ∧
      (t.inst c).chan.sweepTargetPeriod =
        sweepTarget s.config (s.inst c).chan.identity (s.inst c).chan.period (b.extractLsb' 0 3) (b.getLsbD 3)) ∧
    ((s.inst c).chan.sweepDivider ≠ 0 →
      (t.inst c).chan.period = (s.inst c).chan.period ∧
      (t.inst c).chan.sweepTargetPeriod = (s.inst c).chan.sweepTargetPeriod)

/-- R129: with the sweep disabled, `n` ticks change only the divider, which honours a pending reload and counts down to 0,
and the pending flag. That each tick reaches the instance, whichever it is, is the spec's decision D19 (log 1). -/
def Obligations.DisabledSweepOnlyCounts : Prop :=
  ∀ (s : State) (c : Identity) (n : Nat), (s.inst c).chan.sweepEnabled = false →
    ∃ t, execAll (List.replicate n .swp) s = .next t ∧
      let ch := (s.inst c).chan
      (t.inst c).chan =
        { ch with
          sweepReloadPending := ch.sweepReloadPending && n == 0
          sweepDivider :=
            if ch.sweepReloadPending = true ∧ 0 < n then ch.sweepDividerPeriod - (n - 1)
            else ch.sweepDivider - n }

/-- R124 (saturation and downward stop) with R151 and R179: once the period is below 8 or the target of the present fields
is above 2047, chip cycles and sweep ticks alone never change the period again, and every sample they emit is 0. That the
wrapped target of `First` (negating with shift 0 or period 0) counts as above 2047 is the spec's decision D4, followed by
choice (log 9, DESIGN CHOICE). -/
def Obligations.SilenceLastsUntilTheNextWrite : Prop :=
  ∀ (events : List Instr) (s : State) (c : Identity),
    (∀ i ∈ events, i = .cyc ∨ i = .swp) → (s.inst c).chan.SilentNow s.config →
    ∃ t, execAll events s = .next t ∧
      (t.inst c).chan.period = (s.inst c).chan.period ∧
      ∃ emitted, (t.inst c).samples = (s.inst c).samples ++ emitted ∧ ∀ x ∈ emitted, x.amplitude = 0

/-- R125: no sample, no command and no period depends on `TW`: an event other than the two of the snapshot port commutes
with rebuilding the chip at another width. The wrapped value that is read at the new width is the spec's decision D4 (log
9). -/
def Obligations.TargetWidthIsUnobservable : Prop :=
  ∀ (i : Instr) (s t : State) (k : Nat), (∀ c, i ≠ .snap c ∧ i ≠ .rest c) → exec i s = .next t →
    exec i (s.withTargetWidth k) = .next (t.withTargetWidth k) ∧
    ∀ c, ((t.withTargetWidth k).inst c).chan.period = (t.inst c).chan.period ∧
      ((t.withTargetWidth k).inst c).samples = (t.inst c).samples ∧
      ((t.withTargetWidth k).inst c).commands = (t.inst c).commands

/-! ## The snapshot port -/

/-- R141: `SNAP` answers the eleven fields as they are, a stale target included, and changes no Channel State. -/
def Obligations.SnapshotAnswersTheFieldsAsTheyAre : Prop :=
  ∀ (c : Identity) (s : State),
    decodeWord (0b01000#5 ++ bitOfIdentity c ++ 0#10) = .event (.snap c) ∧
    exec (.snap c) s =
      .next (s.setInst c
        { s.inst c with
          records := (s.inst c).records ++
            [⟨(s.inst c).chan.dutyIndex, (s.inst c).chan.dutyPos, (s.inst c).chan.sweepEnabled,
              (s.inst c).chan.sweepDividerPeriod, (s.inst c).chan.sweepNegate, (s.inst c).chan.sweepShift,
              (s.inst c).chan.sweepReloadPending, (s.inst c).chan.sweepDivider,
              (s.inst c).chan.sweepTargetPeriod, (s.inst c).chan.period, (s.inst c).chan.timer⟩] })

/-- R142: `REST` assigns the eleven fields from a record within R37, keeps `identity`, and sends and emits nothing. What
counts as within R37 is the model's reading (log 5, D22); the record's last two fields are the spec's decision D9. -/
def Obligations.RestoreAssignsTheRecord : Prop :=
  ∀ (c : Identity) (s : State) (r : Record), s.recordIn = r →
    r.timer ≤ 2048 → 1 ≤ r.sweepDividerPeriod → r.sweepDividerPeriod ≤ 8 → r.sweepDivider ≤ 8 →
    (r.sweepTargetPeriod ≤ 4094 ∨
      ((s.inst c).chan.identity = .first ∧ r.sweepTargetPeriod = 2 ^ s.config.tw - 1)) →
    exec (.rest c) s =
      .next (s.setInst c
        { s.inst c with
          chan :=
            { identity := (s.inst c).chan.identity
              period := r.period
              timer := r.timer
              dutyIndex := r.dutyIndex
              dutyPos := r.dutyPos
              sweepEnabled := r.sweepEnabled
              sweepNegate := r.sweepNegate
              sweepShift := r.sweepShift
              sweepDividerPeriod := r.sweepDividerPeriod
              sweepDivider := r.sweepDivider
              sweepReloadPending := r.sweepReloadPending
              sweepTargetPeriod := r.sweepTargetPeriod } })

/-- R142 (the spec's decision D22, log 5): a record that breaks the invariants of R37 is refused, and only such a record.
The wrapped value that `First` may hold is the spec's decision D4 (log 9). -/
def Obligations.RestoreRefusesForeignRecords : Prop :=
  ∀ (c : Identity) (s : State),
    exec (.rest c) s = .refused (.recordOutsideInvariants c) ↔
      2048 < s.recordIn.timer ∨ s.recordIn.sweepDividerPeriod = 0 ∨ 8 < s.recordIn.sweepDividerPeriod ∨
        8 < s.recordIn.sweepDivider ∨
        (4094 < s.recordIn.sweepTargetPeriod ∧
          ((s.inst c).chan.identity = .second ∨ s.recordIn.sweepTargetPeriod ≠ 2 ^ s.config.tw - 1))

/-- R143: the record `SNAP` answers in a state within the invariants, given to `REST` in any state whose instance has the
same identity and the same `TW`, restores exactly the Channel State that was saved. The record's last two fields are the
spec's decision D9, what the restore accepts is log 5 (D22), and the wrapped target is D4 (log 9). -/
def Obligations.SnapshotRestoreRoundTrip : Prop :=
  ∀ (c : Identity) (s u t : State), s.Inv → exec (.snap c) s = .next t →
    (u.inst c).chan.identity = (s.inst c).chan.identity → u.config.tw = s.config.tw →
    (t.inst c).records = (s.inst c).records ++ [u.recordIn] →
    ∃ v, exec (.rest c) u = .next v ∧ (v.inst c).chan = (s.inst c).chan

/-! ## Reset -/

/-- R170, at both instances (R56, log 1): `RST` gives every mutable field the value of R38, keeps `identity`, and changes no
trace, no `vol`, no parameter and not the driver's cycle count (R172, log 8). The values are the spec's decision D1. -/
def Obligations.ResetEventReinitialisesBothInstances : Prop :=
  decodeWord 0x3000#16 = .event .rst ∧
  ∀ s : State, ∃ t, exec .rst s = .next t ∧
    t.config = s.config ∧ t.input = s.input ∧ t.recordIn = s.recordIn ∧ t.cycleIndex = s.cycleIndex ∧
    ∀ c, t.inst c =
      { s.inst c with
        chan :=
          { identity := (s.inst c).chan.identity
            period := 0#11
            timer := 0
            dutyIndex := 0#2
            dutyPos := 0#3
            sweepEnabled := false
            sweepNegate := false
            sweepShift := 0#3
            sweepDividerPeriod := 1
            sweepDivider := 0
            sweepReloadPending := false
            sweepTargetPeriod := 0 } }

/-- R38 (the spec's decision D1): the Channel State of both instances in the machine's reset state, each with its own
identity, and nothing emitted yet. -/
def Obligations.ResetStateHoldsTheResetValues : Prop :=
  ∀ c, (State.reset.inst c).chan = ⟨c, 0#11, 0, 0#2, 0#3, false, false, 0#3, 1, 0, false, 0⟩ ∧
    (State.reset.inst c).samples = [] ∧ (State.reset.inst c).commands = [] ∧ (State.reset.inst c).records = []

/-- R171: after `RST`, chip cycles alone clock at every cycle with samples of 0, the duty position counting down and the
timer at 1; sweep ticks alone change nothing. The reset values are the spec's decision D1, that a timer of 0 is expired is
D3, and that the events reach both instances is R56 with D19 (log 1). -/
def Obligations.AfterResetOnlySilence : Prop :=
  ∀ (s u : State) (c : Identity), exec .rst s = .next u →
    (∀ vs : List (Nat × Nat), ∃ t, cyclesWith vs u = .next t ∧
      amplitudes (t.inst c).samples = amplitudes (s.inst c).samples ++ List.replicate vs.length 0 ∧
      (t.inst c).chan.dutyPos.toNat = 7 * vs.length % 8 ∧
      (0 < vs.length → (t.inst c).chan.timer = 1)) ∧
    (∀ n : Nat, execAll (List.replicate n .swp) u = .next u)

/-- R170, the example: `RST` then `SNAP` answers the record of the reset values (the spec's decisions D1, and D9 for the
record's last two fields). -/
def Obligations.SnapshotAfterReset : Prop :=
  ∀ (c : Identity) (s : State), ∃ t, execAll [.rst, .snap c] s = .next t ∧
    (t.inst c).records = (s.inst c).records ++ [⟨0#2, 0#3, false, 1, false, 0#3, false, 0, 0, 0#11, 0⟩]

/-- R173: from reset, `W0`, `W2` and `W3` start a tone of any period from 8 to 1023 unmuted, without a `W1`. The reset
values are the spec's decision D1. -/
def Obligations.StartUpSequenceSounds : Prop :=
  ∀ (c : Identity) (b0 lo hi : Byte) (s : State),
    8 ≤ hi.toNat % 8 * 256 + lo.toNat → hi.toNat % 8 * 256 + lo.toNat < 1024 →
    ∃ t, execAll [.rst, .w0 c b0, .w2 c lo, .w3 c hi] s = .next t ∧
      (t.inst c).chan.period.toNat = hi.toNat % 8 * 256 + lo.toNat ∧
      (t.inst c).chan.timer = hi.toNat % 8 * 256 + lo.toNat + 1 ∧
      (t.inst c).chan.dutyIndex = b0.extractLsb' 6 2 ∧ (t.inst c).chan.dutyPos = 0#3 ∧
      ¬ (t.inst c).chan.SilentNow t.config

/-! ## The whole machine -/

/-- R37 with R13 and R35: every step keeps the invariants of the pair, from every state that has them. The clause on stamps
rests on log 8 (D20), the wrapped target on the spec's decision D4 (log 9), what a restore lets in on log 5 (D22). -/
def Obligations.StepKeepsTheInvariants : Prop :=
  ∀ s t : State, s.Inv → step s = .next t → t.Inv

/-- The reset state has the invariants (R37, R38). The reset values are the spec's decision D1. -/
def Obligations.ResetMeetsTheInvariants : Prop :=
  State.reset.Inv

/-- R13 and R5: no step changes an instance's identity or a construction parameter. -/
def Obligations.StepKeepsIdentityAndParameters : Prop :=
  ∀ s t : State, step s = .next t →
    t.config = s.config ∧ ∀ c, (t.inst c).chan.identity = (s.inst c).chan.identity

/-- R8, R80, R150: every event completes in every state, but a `REST` whose record is outside the invariants (D22, log 5).
-/
def Obligations.EveryEventCompletes : Prop :=
  ∀ (i : Instr) (s : State),
    (∃ t, exec i s = .next t) ∨
    (∃ c, i = .rest c ∧ s.recordIn.inRange s.config (s.inst c).chan.identity = false ∧
      exec i s = .refused (.recordOutsideInvariants c))

/-- R12: which events may change which field. That `CYC`, `SWP` and `RST` carry no instance and reach both is R56, for `SWP`
the spec's decision D19 (log 1). -/
def Obligations.OnlyTheNamedMutatorsChangeAField : Prop :=
  ∀ (i : Instr) (s t : State) (c : Identity), exec i s = .next t →
    let a := (s.inst c).chan
    let z := (t.inst c).chan
    let restart : Prop := i = .rst ∨ i = .rest c
    z.identity = a.identity ∧
    (z.period ≠ a.period → (∃ b, i = .w2 c b ∨ i = .w3 c b) ∨ i = .swp ∨ restart) ∧
    (z.timer ≠ a.timer → i = .cyc ∨ (∃ b, i = .w3 c b) ∨ restart) ∧
    (z.dutyIndex ≠ a.dutyIndex → (∃ b, i = .w0 c b) ∨ restart) ∧
    (z.dutyPos ≠ a.dutyPos → i = .cyc ∨ (∃ b, i = .w3 c b) ∨ restart) ∧
    (z.sweepEnabled ≠ a.sweepEnabled → (∃ b, i = .w1 c b) ∨ restart) ∧
    (z.sweepNegate ≠ a.sweepNegate → (∃ b, i = .w1 c b) ∨ restart) ∧
    (z.sweepShift ≠ a.sweepShift → (∃ b, i = .w1 c b) ∨ restart) ∧
    (z.sweepDividerPeriod ≠ a.sweepDividerPeriod → (∃ b, i = .w1 c b) ∨ restart) ∧
    (z.sweepDivider ≠ a.sweepDivider → i = .swp ∨ restart) ∧
    (z.sweepReloadPending ≠ a.sweepReloadPending → (∃ b, i = .w1 c b) ∨ i = .swp ∨ restart) ∧
    (z.sweepTargetPeriod ≠ a.sweepTargetPeriod → i = .cyc ∨ i = .swp ∨ restart)

/-- R8, R30 to R33, R35, R104, R141: what each event appends to the traces of each instance. A sample is appended exactly
when a `CYC` finds the timer expired, that is at 1 or 0 (the spec's decision D3); its stamp `cycleIndex + 1` is the model's
choice (log 8, D20). The order of the two commands of a write is the spec's decision D18. -/
def Obligations.OutputsOfEachEvent : Prop :=
  ∀ (i : Instr) (s t : State) (c : Identity), exec i s = .next t →
    (t.inst c).commands = (s.inst c).commands ++
      (match i with
        | .w0 d b => if d = c then [.lenInit (b.getLsbD s.config.haltBit), .envInit b] else []
        | .w3 d b => if d = c then [.lenLoad (b.extractLsb' 3 5), .envReset] else []
        | _ => []) ∧
    (t.inst c).records.length = (s.inst c).records.length + (if i = .snap c then 1 else 0) ∧
    (s.inst c).records <+: (t.inst c).records ∧
    (if i = .cyc ∧ (s.inst c).chan.timer ≤ 1 then
      ∃ a, (t.inst c).samples = (s.inst c).samples ++ [⟨a, s.cycleIndex + 1⟩]
    else (t.inst c).samples = (s.inst c).samples)

/-- R12, R160: what an event does to one instance depends on nothing of the other, only on the parameters, the cycle cursor
(log 8) and the record input (log 5). -/
def Obligations.InstancesAreIsolated : Prop :=
  ∀ (i : Instr) (s s' t t' : State) (c : Identity),
    s.inst c = s'.inst c → s.config = s'.config → s.cycleIndex = s'.cycleIndex → s.recordIn = s'.recordIn →
    exec i s = .next t → exec i s' = .next t' → t.inst c = t'.inst c

/-- R34, R183: the volume reaches nothing but the amplitude of a sample: with other values of `vol`, an event gives the same
Channel States, commands and records, and as many samples with the same stamps (log 8); an event other than `CYC` gives the
same samples. That `vol` is held while an event runs is log 4. -/
def Obligations.VolumeReachesOnlyAmplitudes : Prop :=
  ∀ (i : Instr) (s t : State) (v : Nat × Nat), exec i s = .next t →
    ∃ t', exec i (s.withVols v) = .next t' ∧
      t'.config = t.config ∧ t'.cycleIndex = t.cycleIndex ∧
      ∀ c, (t'.inst c).chan = (t.inst c).chan ∧ (t'.inst c).commands = (t.inst c).commands ∧
        (t'.inst c).records = (t.inst c).records ∧
        (t'.inst c).samples.map Sample.atCycle = (t.inst c).samples.map Sample.atCycle ∧
        (i ≠ .cyc → (t'.inst c).samples = (t.inst c).samples)

/-- R71 (the spec's notation, D12): the expansions of `DUTY`, `SWEEP` and `SETP`, run, set the fields their operands name.
The order of the two commands of `SETP` is the spec's decision D18. -/
def Obligations.PseudoOperationsSetTheirFields : Prop :=
  ∀ (c : Identity) (s : State),
    (∀ d e, (Pseudo.duty c d e).wf = true → ∃ t, execAll (Pseudo.duty c d e).expand s = .next t ∧
      (t.inst c).chan.dutyIndex.toNat = d) ∧
    (∀ en p n k, (Pseudo.sweep c en p n k).wf = true →
      ∃ t, execAll (Pseudo.sweep c en p n k).expand s = .next t ∧
        (t.inst c).chan.sweepEnabled = decide (en = 1) ∧ (t.inst c).chan.sweepDividerPeriod = p + 1 ∧
        (t.inst c).chan.sweepNegate = decide (n = 1) ∧ (t.inst c).chan.sweepShift.toNat = k) ∧
    (∀ p n, (Pseudo.setPeriod c p n).wf = true →
      ∃ t, execAll (Pseudo.setPeriod c p n).expand s = .next t ∧
        (t.inst c).chan.period.toNat = p ∧ (t.inst c).chan.timer = p + 1 ∧
        (t.inst c).commands = (s.inst c).commands ++ [.lenLoad (BitVec.ofNat 5 n), .envReset])

/-! ## An internal procedure -/

/-- R103: `Clock` decrements the duty position modulo 8 and emits one sample, 0 if muted (R102), else the pattern bit at the
new position times the volume; so 0 if the bit or the volume is 0. Nothing else changes, and the stamp is any. -/
def Obligations.ClockStepsDownThenSamples : Prop :=
  ∀ (cfg : Config) (stamp : Nat) (i : Instance),
    let silent : Prop := i.chan.period.toNat < 8 ∨ 2047 < i.chan.sweepTargetPeriod
    ∃ (q : BitVec 3) (a : Nat), q.toNat = (i.chan.dutyPos.toNat + 7) % 8 ∧
      i.clock cfg stamp =
        { i with chan := { i.chan with dutyPos := q }, samples := i.samples ++ [⟨a, stamp⟩] } ∧
      (silent → a = 0) ∧
      (¬ silent → a = (dutyBit cfg i.chan.dutyIndex q).toNat * (i.vol % 2 ^ cfg.vw)) ∧
      (dutyBit cfg i.chan.dutyIndex q = false → a = 0) ∧
      (i.vol % 2 ^ cfg.vw = 0 → a = 0)
end

