-- ==== Sys2Proof/Laws/Arithmetic.lean ====
section
/-! SUPPORT. The arithmetic of the operand fields and of the sweep's target, as facts on natural numbers. -/

namespace Sys2Proof.Machine

/-- Twelve bits or more hold every unwrapped target (R5). -/
theorem Config.tw_ge (cfg : Config) : 4096 ≤ 2 ^ cfg.tw := by
  have : 2 ^ 12 ≤ 2 ^ cfg.tw := Nat.pow_le_pow_right (by decide) (Nat.le_add_right 12 _)
  simpa using this

/-- A value that fits is kept by `trunc` (R7). -/
theorem trunc_of_lt {n v : Nat} (h : v < 2 ^ n) : trunc n (v : Int) = v := by
  unfold trunc
  rw [Int.emod_eq_of_lt (by omega) (by exact_mod_cast h)]
  rfl

/-- `0 - 1` wraps to the largest value (R123, D4). -/
theorem trunc_neg_one (n : Nat) : trunc n (-1) = 2 ^ n - 1 := by
  unfold trunc
  have hp : (0 : Int) < 2 ^ n := by positivity
  have h : (-1 : Int) % 2 ^ n = 2 ^ n - 1 := by
    rw [← Int.add_mul_emod_self_left (-1) (2 ^ n) 1, Int.emod_eq_of_lt] <;> omega
  have : ((2 ^ n : Nat) : Int) = 2 ^ n := by push_cast; rfl
  rw [h]; omega

/-- `{period[10:8], b}` as a number (R84). -/
theorem withPeriodLow_toNat (p : BitVec 11) (b : Byte) :
    (withPeriodLow p b).toNat = p.toNat / 256 * 256 + b.toNat := by
  have hp := p.isLt
  have hb := b.isLt
  simp only [withPeriodLow, BitVec.toNat_append, BitVec.extractLsb'_toNat]
  rw [← Nat.shiftLeft_add_eq_or_of_lt hb, Nat.shiftLeft_eq, Nat.shiftRight_eq_div_pow]
  norm_num
  omega

/-- `{H, period[7:0]}` as a number (R85). -/
theorem withPeriodHigh_toNat (p : BitVec 11) (b : Byte) :
    (withPeriodHigh p b).toNat = b.toNat % 8 * 256 + p.toNat % 256 := by
  simp only [withPeriodHigh, periodHighField, BitVec.toNat_append, BitVec.extractLsb'_toNat]
  have h8 : (p.toNat >>> 0) % 2 ^ 8 < 2 ^ 8 := Nat.mod_lt _ (by decide)
  rw [← Nat.shiftLeft_add_eq_or_of_lt h8, Nat.shiftLeft_eq]
  simp

/-- What is shifted out never exceeds the period (R123: `0 <= delta <= p`). -/
theorem shiftRight_le (p s : Nat) : p >>> s ≤ p := by
  rw [Nat.shiftRight_eq_div_pow]
  exact Nat.div_le_self _ _

/-- `delta = p` exactly when `s = 0` or `p = 0` (R123). -/
theorem shiftRight_eq_self (p s : Nat) : p >>> s = p ↔ s = 0 ∨ p = 0 := by
  rw [Nat.shiftRight_eq_div_pow]
  constructor
  · intro h
    rcases Nat.eq_zero_or_pos s with hs | hs
    · exact .inl hs
    · rcases Nat.eq_zero_or_pos p with hp | hp
      · exact .inr hp
      · have : p / 2 ^ s < p := Nat.div_lt_self hp (Nat.one_lt_two_pow (by omega))
        omega
  · rintro (rfl | rfl) <;> simp

/-- The target when adding: never wraps (R123). -/
theorem sweepTarget_add (cfg : Config) (c : Identity) (p : BitVec 11) (s : BitVec 3) :
    sweepTarget cfg c p s false = p.toNat + p.toNat >>> s.toNat := rfl

/-- The target of `Second` when subtracting (R123). -/
theorem sweepTarget_second_sub (cfg : Config) (p : BitVec 11) (s : BitVec 3) :
    sweepTarget cfg .second p s true = p.toNat - p.toNat >>> s.toNat := by
  have hp := p.isLt
  have hd := shiftRight_le p.toNat s.toNat
  have ht := Config.tw_ge cfg
  simp only [sweepTarget, if_true]
  generalize p.toNat >>> s.toNat = delta at hd ⊢
  rw [← Nat.cast_sub hd, trunc_of_lt (by omega)]

/-- The target of `First` when subtracting: one less, wrapped to the largest value when the difference is 0 (R122, R123). -/
theorem sweepTarget_first_sub (cfg : Config) (p : BitVec 11) (s : BitVec 3) :
    sweepTarget cfg .first p s true =
      if p.toNat >>> s.toNat = p.toNat then 2 ^ cfg.tw - 1 else p.toNat - p.toNat >>> s.toNat - 1 := by
  have hp := p.isLt
  have hd := shiftRight_le p.toNat s.toNat
  have ht := Config.tw_ge cfg
  simp only [sweepTarget, if_true]
  generalize p.toNat >>> s.toNat = delta at hd ⊢
  rw [← Nat.cast_sub hd, trunc_of_lt (by omega)]
  split
  next h =>
    rw [h, Nat.sub_self]
    exact trunc_neg_one _
  next h =>
    rw [show ((p.toNat - delta : Nat) : Int) - 1 = ((p.toNat - delta - 1 : Nat) : Int) by omega]
    exact trunc_of_lt (by omega)

/-- Every target is below 4095, or is the wrapped value of a negating `First` (R123, R37). -/
theorem sweepTarget_range (cfg : Config) (c : Identity) (p : BitVec 11) (s : BitVec 3) (neg : Bool) :
    sweepTarget cfg c p s neg ≤ 4094 ∨
      (c = .first ∧ neg = true ∧ sweepTarget cfg c p s neg = 2 ^ cfg.tw - 1) := by
  have hp := p.isLt
  have hd := shiftRight_le p.toNat s.toNat
  cases neg
  · left; rw [sweepTarget_add]; omega
  · cases c
    · rw [sweepTarget_first_sub]
      split
      · exact .inr ⟨rfl, rfl, rfl⟩
      · left
        generalize p.toNat >>> s.toNat = delta at hd ⊢
        omega
    · left
      rw [sweepTarget_second_sub]
      generalize p.toNat >>> s.toNat = delta at hd ⊢
      omega

end Sys2Proof.Machine
end

