-- ==== Sys2Proof/Laws/State.lean ====
section
/-! SUPPORT. One lemma per field per update of the state, so that no later proof unfolds a record update. -/

namespace Sys2Proof.Machine

variable (s : State) (i : Instance) (c d : Identity) (f : Instance → Instance)

@[simp] theorem State.inst_first : s.inst .first = s.first := rfl
@[simp] theorem State.inst_second : s.inst .second = s.second := rfl

@[simp] theorem State.setInst_config : (s.setInst c i).config = s.config := by cases c <;> rfl
@[simp] theorem State.setInst_input : (s.setInst c i).input = s.input := by cases c <;> rfl
@[simp] theorem State.setInst_recordIn : (s.setInst c i).recordIn = s.recordIn := by cases c <;> rfl
@[simp] theorem State.setInst_cycleIndex : (s.setInst c i).cycleIndex = s.cycleIndex := by
  cases c <;> rfl
@[simp] theorem State.setInst_first_first : (s.setInst .first i).first = i := rfl
@[simp] theorem State.setInst_first_second : (s.setInst .first i).second = s.second := rfl
@[simp] theorem State.setInst_second_first : (s.setInst .second i).first = s.first := rfl
@[simp] theorem State.setInst_second_second : (s.setInst .second i).second = i := rfl

/-- Reading the instance just replaced. -/
@[simp] theorem State.inst_setInst_self : (s.setInst c i).inst c = i := by cases c <;> rfl

/-- Replacing one instance leaves the other alone. -/
theorem State.inst_setInst_of_ne (h : d ≠ c) : (s.setInst c i).inst d = s.inst d := by
  cases c <;> cases d <;> first | rfl | exact absurd rfl h

/-- Reading after replacing, in one equation. -/
theorem State.inst_setInst : (s.setInst c i).inst d = if d = c then i else s.inst d := by
  cases c <;> cases d <;> rfl

@[simp] theorem State.both_config : (s.both f).config = s.config := rfl
@[simp] theorem State.both_input : (s.both f).input = s.input := rfl
@[simp] theorem State.both_recordIn : (s.both f).recordIn = s.recordIn := rfl
@[simp] theorem State.both_cycleIndex : (s.both f).cycleIndex = s.cycleIndex := rfl
@[simp] theorem State.both_first : (s.both f).first = f s.first := rfl
@[simp] theorem State.both_second : (s.both f).second = f s.second := rfl

/-- A broadcast reaches each instance (R56). -/
@[simp] theorem State.inst_both : (s.both f).inst c = f (s.inst c) := by cases c <;> rfl

@[simp] theorem State.countCycle_config : s.countCycle.config = s.config := rfl
@[simp] theorem State.countCycle_input : s.countCycle.input = s.input := rfl
@[simp] theorem State.countCycle_recordIn : s.countCycle.recordIn = s.recordIn := rfl
@[simp] theorem State.countCycle_cycleIndex : s.countCycle.cycleIndex = s.cycleIndex + 1 := rfl
@[simp] theorem State.countCycle_first : s.countCycle.first = s.first := rfl
@[simp] theorem State.countCycle_second : s.countCycle.second = s.second := rfl

/-- The instances do not see the driver's cursor. -/
@[simp] theorem State.inst_countCycle : s.countCycle.inst c = s.inst c := by cases c <;> rfl

variable (a t : Nat) (cmd : Command)

@[simp] theorem Instance.emitSample_chan : (i.emitSample a t).chan = i.chan := rfl
@[simp] theorem Instance.emitSample_vol : (i.emitSample a t).vol = i.vol := rfl
@[simp] theorem Instance.emitSample_samples : (i.emitSample a t).samples = i.samples ++ [⟨a, t⟩] := rfl
@[simp] theorem Instance.emitSample_commands : (i.emitSample a t).commands = i.commands := rfl
@[simp] theorem Instance.emitSample_records : (i.emitSample a t).records = i.records := rfl
@[simp] theorem Instance.emitCommand_chan : (i.emitCommand cmd).chan = i.chan := rfl
@[simp] theorem Instance.emitCommand_vol : (i.emitCommand cmd).vol = i.vol := rfl
@[simp] theorem Instance.emitCommand_samples : (i.emitCommand cmd).samples = i.samples := rfl
@[simp] theorem Instance.emitCommand_commands :
    (i.emitCommand cmd).commands = i.commands ++ [cmd] := rfl
@[simp] theorem Instance.emitCommand_records : (i.emitCommand cmd).records = i.records := rfl

end Sys2Proof.Machine
end

