-- ==== Sys2Proof/Laws/Ops.lean ====
section
/-! SUPPORT. One lemma per shared operation that says everything it can do; proofs cite these instead of unfolding. -/

namespace Sys2Proof.Machine

/-! ## RecomputeTarget -/

/-- Without the request to apply, only the target is stored (R121). -/
theorem Channel.recomputeTarget_false (cfg : Config) (ch : Channel) :
    ch.recomputeTarget cfg false = { ch with sweepTargetPeriod := ch.freshTarget cfg } := rfl

/-- With it, the target is stored and the period takes it exactly when the guard holds (R121, R124). -/
theorem Channel.recomputeTarget_true (cfg : Config) (ch : Channel) :
    ch.recomputeTarget cfg true =
      { ch with
        sweepTargetPeriod := ch.freshTarget cfg
        period := if ch.mayCommit (ch.freshTarget cfg) then BitVec.ofNat 11 (ch.freshTarget cfg) else ch.period } := by
  unfold Channel.recomputeTarget
  cases h : ch.mayCommit (ch.freshTarget cfg) <;> simp [h]

/-- The guard, as a proposition (R124). -/
theorem Channel.mayCommit_iff (ch : Channel) (target : Nat) :
    ch.mayCommit target = true ↔ 0 < ch.sweepShift.toNat ∧ 8 ≤ ch.period.toNat ∧ target ≤ 2047 := by
  simp [Channel.mayCommit, and_assoc]

/-- The mute rule, as a proposition (R102). -/
theorem Channel.muted_iff (ch : Channel) :
    ch.muted = true ↔ ch.period.toNat < 8 ∨ 2047 < ch.sweepTargetPeriod := by
  simp [Channel.muted]

/-! ## The chip cycle at one instance -/

/-- A cycle before expiry refreshes the target and counts down (R100, R101). -/
theorem Instance.cycle_of_lt (cfg : Config) (stamp : Nat) (i : Instance) (h : 1 < i.chan.timer) :
    i.cycle cfg stamp =
      { i with chan := { i.chan with sweepTargetPeriod := i.chan.freshTarget cfg, timer := i.chan.timer - 1 } } := by
  have : ¬ i.chan.timer ≤ 1 := by omega
  simp [Instance.cycle, Instance.timerStep, Channel.recomputeTarget_false, this]

/-- A cycle at expiry refreshes the target, reloads the timer, steps the duty position down and emits one sample (R100,
R101, R103). -/
theorem Instance.cycle_of_le (cfg : Config) (stamp : Nat) (i : Instance) (h : i.chan.timer ≤ 1) :
    i.cycle cfg stamp =
      { i with
        chan := { i.chan with
          sweepTargetPeriod := i.chan.freshTarget cfg
          timer := i.chan.period.toNat + 1
          dutyPos := i.chan.dutyPos - 1#3 }
        samples := i.samples ++
          [⟨if i.chan.period.toNat < 8 ∨ 2047 < i.chan.freshTarget cfg then 0
            else (dutyBit cfg i.chan.dutyIndex (i.chan.dutyPos - 1#3)).toNat * (i.vol % 2 ^ cfg.vw), stamp⟩] } := by
  simp [Instance.cycle, Instance.timerStep, Channel.recomputeTarget_false, h, Instance.clock,
    Instance.emitSample, Instance.amplitude, Channel.muted_iff, Instance.readVol]

/-! ## The sweep tick at one channel: the five branches of R126 -/

/-- A pending reload with an expired divider and an enabled sweep applies first. -/
theorem Channel.tickSweep_pending_apply (cfg : Config) (ch : Channel) (hp : ch.sweepReloadPending = true)
    (hd : ch.sweepDivider = 0) (he : ch.sweepEnabled = true) :
    ch.tickSweep cfg =
      { ch.recomputeTarget cfg true with sweepDivider := ch.sweepDividerPeriod, sweepReloadPending := false } := by
  simp [Channel.tickSweep, hp, hd, he]

/-- Any other pending reload only reloads. -/
theorem Channel.tickSweep_pending_reload (cfg : Config) (ch : Channel) (hp : ch.sweepReloadPending = true)
    (h : ¬ (ch.sweepDivider = 0 ∧ ch.sweepEnabled = true)) :
    ch.tickSweep cfg =
      { ch with sweepDivider := ch.sweepDividerPeriod, sweepReloadPending := false } := by
  simp [Channel.tickSweep, hp, h]

/-- A running divider counts down. -/
theorem Channel.tickSweep_count (cfg : Config) (ch : Channel) (hp : ch.sweepReloadPending = false)
    (hd : 0 < ch.sweepDivider) :
    ch.tickSweep cfg = { ch with sweepDivider := ch.sweepDivider - 1 } := by
  simp [Channel.tickSweep, hp, hd]

/-- An expired divider of an enabled sweep applies and reloads. -/
theorem Channel.tickSweep_apply (cfg : Config) (ch : Channel) (hp : ch.sweepReloadPending = false)
    (hd : ch.sweepDivider = 0) (he : ch.sweepEnabled = true) :
    ch.tickSweep cfg = { ch.recomputeTarget cfg true with sweepDivider := ch.sweepDividerPeriod } := by
  simp [Channel.tickSweep, hp, hd, he]

/-- An expired divider of a disabled sweep does nothing. -/
theorem Channel.tickSweep_idle (cfg : Config) (ch : Channel) (hp : ch.sweepReloadPending = false)
    (hd : ch.sweepDivider = 0) (he : ch.sweepEnabled = false) : ch.tickSweep cfg = ch := by
  simp [Channel.tickSweep, hp, hd, he]

/-- Everything a sweep tick can do to a channel, in one case split (R126). -/
theorem Channel.tickSweep_cases (cfg : Config) (ch : Channel) :
    (ch.sweepReloadPending = true ∧ ch.sweepDivider = 0 ∧ ch.sweepEnabled = true ∧
      ch.tickSweep cfg = { ch.recomputeTarget cfg true with
        sweepDivider := ch.sweepDividerPeriod, sweepReloadPending := false }) ∨
    (ch.sweepReloadPending = true ∧ ¬ (ch.sweepDivider = 0 ∧ ch.sweepEnabled = true) ∧
      ch.tickSweep cfg = { ch with sweepDivider := ch.sweepDividerPeriod, sweepReloadPending := false }) ∨
    (ch.sweepReloadPending = false ∧ 0 < ch.sweepDivider ∧
      ch.tickSweep cfg = { ch with sweepDivider := ch.sweepDivider - 1 }) ∨
    (ch.sweepReloadPending = false ∧ ch.sweepDivider = 0 ∧ ch.sweepEnabled = true ∧
      ch.tickSweep cfg = { ch.recomputeTarget cfg true with sweepDivider := ch.sweepDividerPeriod }) ∨
    (ch.sweepReloadPending = false ∧ ch.sweepDivider = 0 ∧ ch.sweepEnabled = false ∧
      ch.tickSweep cfg = ch) := by
  cases hp : ch.sweepReloadPending
  · rcases Nat.eq_zero_or_pos ch.sweepDivider with hd | hd
    · cases he : ch.sweepEnabled
      · exact .inr (.inr (.inr (.inr ⟨rfl, hd, rfl, Channel.tickSweep_idle cfg ch hp hd he⟩)))
      · exact .inr (.inr (.inr (.inl ⟨rfl, hd, rfl, Channel.tickSweep_apply cfg ch hp hd he⟩)))
    · exact .inr (.inr (.inl ⟨rfl, hd, by rw [Channel.tickSweep_count cfg ch hp hd, hp]⟩))
  · by_cases h : ch.sweepDivider = 0 ∧ ch.sweepEnabled = true
    · exact .inl ⟨rfl, h.1, h.2, Channel.tickSweep_pending_apply cfg ch hp h.1 h.2⟩
    · exact .inr (.inl ⟨rfl, h, Channel.tickSweep_pending_reload cfg ch hp h⟩)

/-- A commit does not look at the divider, so reloading it before or after is the same (R121). -/
theorem Channel.recomputeTarget_divider (cfg : Config) (ch : Channel) (d e : Nat) :
    { Channel.recomputeTarget cfg true { ch with sweepDivider := d } with sweepDivider := e } =
      { ch.recomputeTarget cfg true with sweepDivider := e } := by
  rw [Channel.recomputeTarget_true, Channel.recomputeTarget_true]
  rfl

/-! ## The snapshot record -/

/-- The two directions of the record are inverse (R140 to R142). -/
@[simp] theorem Channel.ofRecord_toRecord (ch : Channel) : Channel.ofRecord ch.identity ch.toRecord = ch := rfl

@[simp] theorem Channel.toRecord_ofRecord (c : Identity) (r : Record) :
    (Channel.ofRecord c r).toRecord = r := rfl

@[simp] theorem Channel.ofRecord_identity (c : Identity) (r : Record) :
    (Channel.ofRecord c r).identity = c := rfl

/-- The check of a record, as a proposition (R37, R142). -/
theorem Record.inRange_iff (cfg : Config) (c : Identity) (r : Record) :
    r.inRange cfg c = true ↔
      r.timer ≤ 2048 ∧ 1 ≤ r.sweepDividerPeriod ∧ r.sweepDividerPeriod ≤ 8 ∧ r.sweepDivider ≤ 8 ∧
        (r.sweepTargetPeriod ≤ 4094 ∨ (c = .first ∧ r.sweepTargetPeriod = 2 ^ cfg.tw - 1)) := by
  simp [Record.inRange, and_assoc]

/-! ## The next state of each event -/

variable (c : Identity) (b : Byte) (s : State)

theorem exec_w0 : exec (.w0 c b) s = .next (s.setInst c ((s.inst c).writeDuty s.config b)) := rfl
theorem exec_w1 : exec (.w1 c b) s = .next (s.setInst c ((s.inst c).writeSweep b)) := rfl
theorem exec_w2 : exec (.w2 c b) s = .next (s.setInst c ((s.inst c).writePeriodLow b)) := rfl
theorem exec_w3 : exec (.w3 c b) s = .next (s.setInst c ((s.inst c).writePeriodHigh b)) := rfl
theorem exec_cyc :
    exec .cyc s =
      .next (s.both (Instance.cycle s.config (s.cycleIndex + 1))).countCycle := rfl
theorem exec_swp : exec .swp s = .next (s.both (Instance.tickSweep s.config)) := rfl
theorem exec_rst : exec .rst s = .next (s.both Instance.restart) := rfl
theorem exec_snap : exec (.snap c) s = .next (s.setInst c (s.inst c).snapshot) := rfl
theorem exec_rest_of_inRange (h : s.recordIn.inRange s.config (s.inst c).chan.identity = true) :
    exec (.rest c) s = .next (s.setInst c ((s.inst c).restore s.recordIn)) := by
  simp [exec, execRest, h]
theorem exec_rest_of_not_inRange (h : s.recordIn.inRange s.config (s.inst c).chan.identity = false) :
    exec (.rest c) s = .refused (.recordOutsideInvariants c) := by
  simp [exec, execRest, h]

/-- What the event `i`, when it completes, leaves of the instance `d`. -/
def State.instAfter (s : State) (d : Identity) : Instr → Instance
  | .w0 c b => if d = c then (s.inst d).writeDuty s.config b else s.inst d
  | .w1 c b => if d = c then (s.inst d).writeSweep b else s.inst d
  | .w2 c b => if d = c then (s.inst d).writePeriodLow b else s.inst d
  | .w3 c b => if d = c then (s.inst d).writePeriodHigh b else s.inst d
  | .cyc => (s.inst d).cycle s.config (s.cycleIndex + 1)
  | .swp => (s.inst d).tickSweep s.config
  | .rst => (s.inst d).restart
  | .snap c => if d = c then (s.inst d).snapshot else s.inst d
  | .rest c => if d = c then (s.inst d).restore s.recordIn else s.inst d

/-- Everything an event that answers a next state can do: `instAfter` at each instance, and around them only the cycle
cursor (the inversion lemma of `exec`). -/
theorem exec_next {i : Instr} {s t : State} (h : exec i s = .next t) :
    t.config = s.config ∧ t.input = s.input ∧ t.recordIn = s.recordIn ∧
      t.cycleIndex = (if i = .cyc then s.cycleIndex + 1 else s.cycleIndex) ∧
      ∀ d, t.inst d = s.instAfter d i := by
  cases i with
  | rest c =>
    cases hr : s.recordIn.inRange s.config (s.inst c).chan.identity
    · rw [exec_rest_of_not_inRange c s hr] at h; cases h
    · rw [exec_rest_of_inRange c s hr] at h
      cases h
      refine ⟨by simp, by simp, by simp, by simp, fun d => ?_⟩
      by_cases hd : d = c
      · subst hd; simp [State.instAfter]
      · simp [State.instAfter, State.inst_setInst, hd]
  | cyc => cases h; exact ⟨rfl, rfl, rfl, rfl, fun d => by cases d <;> rfl⟩
  | swp => cases h; exact ⟨rfl, rfl, rfl, rfl, fun d => by cases d <;> rfl⟩
  | rst => cases h; exact ⟨rfl, rfl, rfl, rfl, fun d => by cases d <;> rfl⟩
  | w0 c b | w1 c b | w2 c b | w3 c b | snap c =>
    cases h
    refine ⟨by simp, by simp, by simp, by simp, fun d => ?_⟩
    by_cases hd : d = c
    · subst hd; simp [State.instAfter]
    · simp [State.instAfter, State.inst_setInst, hd]

end Sys2Proof.Machine
end

