-- ==== Sys2Proof/Laws/Fetch.lean ====
section
/-! SUPPORT. What presenting an input changes, and what one step does with the head of the queue. -/

namespace Sys2Proof.Machine

variable (s : State) (e : Input) (later : List Input) (c : Identity)

@[simp] theorem State.present_config : (s.present e later).config = s.config := rfl
@[simp] theorem State.present_input : (s.present e later).input = later := rfl
@[simp] theorem State.present_recordIn : (s.present e later).recordIn = e.record := rfl
@[simp] theorem State.present_cycleIndex : (s.present e later).cycleIndex = s.cycleIndex := rfl
@[simp] theorem State.present_chan : ((s.present e later).inst c).chan = (s.inst c).chan := by
  cases c <;> rfl
@[simp] theorem State.present_samples : ((s.present e later).inst c).samples = (s.inst c).samples := by
  cases c <;> rfl
@[simp] theorem State.present_commands : ((s.present e later).inst c).commands = (s.inst c).commands := by
  cases c <;> rfl
@[simp] theorem State.present_records : ((s.present e later).inst c).records = (s.inst c).records := by
  cases c <;> rfl

/-- Presenting the entry that `inputOfWord` makes gives back the state it was made from. -/
@[simp] theorem State.present_inputOfWord (w : EventWord) :
    State.present { s with input := s.inputOfWord w :: s.input } (s.inputOfWord w) s.input = s := rfl

/-- Everything one step can do: idle, process an event, or refuse (the inversion lemma of `step`). -/
theorem step_next {s t : State} (h : step s = .next t) :
    (t = s ∧ s.input = []) ∨
    (∃ e later, s.input = e :: later ∧ (t = s.present e later ∨ ∃ i, exec i (s.present e later) = .next t)) := by
  unfold step State.fetch at h
  cases hi : s.input with
  | nil => rw [hi] at h; cases h; exact .inl ⟨rfl, rfl⟩
  | cons e later =>
    refine .inr ⟨e, later, rfl, ?_⟩
    rw [hi] at h
    unfold State.perform at h
    cases hq : e.request with
    | word w =>
      simp only [hq] at h
      cases hw : decodeWord w with
      | event i => simp only [hw] at h; exact .inr ⟨i, h⟩
      | noEvent x => simp [hw] at h
    | store a b =>
      simp only [hq] at h
      cases hr : routeStore (s.present e later).config a b with
      | some i => simp only [hr] at h; exact .inr ⟨i, h⟩
      | none => simp only [hr] at h; cases h; exact .inl rfl
    | load a =>
      simp only [hq] at h
      cases hw : inWindows (s.present e later).config a with
      | true => rw [hw] at h; cases h
      | false => rw [hw] at h; cases h; exact .inl rfl

end Sys2Proof.Machine
end

