-- ==== Sys2Proof/Laws/PerInstr.lean ====
section
/-! SUPPORT. Facts made per event: the family `RowMatch`, which says that the word of an event matches the opcode table's
columns "match" and "mask" of its row (R72). -/

namespace Sys2Proof.Laws.RowMatch

/-- The word of the event, under its row's mask, is its row's match value. -/
def Statement (i : Instr) : Prop := encode i &&& (opcodeRow i).mask = (opcodeRow i).value

theorem w0 (c : Identity) (b : Byte) : Statement (.w0 c b) := by
  cases c <;> (unfold Statement encode encodeWrite opcodeRow bitOfIdentity; revert b; decide)

theorem w1 (c : Identity) (b : Byte) : Statement (.w1 c b) := by
  cases c <;> (unfold Statement encode encodeWrite opcodeRow bitOfIdentity; revert b; decide)

theorem w2 (c : Identity) (b : Byte) : Statement (.w2 c b) := by
  cases c <;> (unfold Statement encode encodeWrite opcodeRow bitOfIdentity; revert b; decide)

theorem w3 (c : Identity) (b : Byte) : Statement (.w3 c b) := by
  cases c <;> (unfold Statement encode encodeWrite opcodeRow bitOfIdentity; revert b; decide)

theorem cyc : Statement .cyc := by unfold Statement; decide

theorem swp : Statement .swp := by unfold Statement; decide

theorem rst : Statement .rst := by unfold Statement; decide

theorem snap (c : Identity) : Statement (.snap c) := by
  cases c <;> (unfold Statement; decide)

theorem rest (c : Identity) : Statement (.rest c) := by
  cases c <;> (unfold Statement; decide)

end Sys2Proof.Laws.RowMatch
end

