-- ==== Sys2Proof/Tests/Slice0.lean ====
section
/-! SUPPORT. The model's own tests. Expected results come from the spec: 95_test_vectors.md, the examples of the rules, and
words written out from the patterns of R72. After them, one witness per statement (or per clause of one) that has
hypotheses: a concrete state and operands that meet them all. -/

namespace Sys2Proof.Machine.Tests

/-! ## Helpers -/

/-- The next state of an outcome. -/
def nextOf : Host.Outcome State Fault Refusal → Option State
  | .next s => some s
  | .fault _ => none
  | .refused _ => none

/-- The refusal of an outcome. -/
def refusalOf : Host.Outcome State Fault Refusal → Option Refusal
  | .refused r => some r
  | .next _ => none
  | .fault _ => none

/-- The reset state with another Channel State in one slot, and volume 15 presented to both. -/
def stateWith (c : Identity) (f : Channel → Channel) : State :=
  (State.reset.withVols (15, 15)).setInst c
    { (State.reset.withVols (15, 15)).inst c with chan := f (State.reset.inst c).chan }

/-- The reset state with one entry in the queue. -/
def stateAsked (q : Request) : State :=
  { State.reset with input := [⟨q, 3, 5, Record.reset⟩] }

/-- A record with one target, all else as after reset. -/
def recordWith (target : Nat) : Record := { Record.reset with sweepTargetPeriod := target }

/-- What the instance `c` is after one event. -/
def after (i : Instr) (c : Identity) (s : State) : Option Instance := (nextOf (exec i s)).map fun t => t.inst c

/-! ## Well-formedness: one ill-formed term for each check -/

theorem test_wf_default_parameters : presumedConfig.wf = true := by decide
theorem test_wf_refuses_duty0 : ({ presumedConfig with duty0 := 0b00000011#8 }).wf = false := by decide
theorem test_wf_refuses_duty1 : ({ presumedConfig with duty1 := 0b00000010#8 }).wf = false := by decide
theorem test_wf_refuses_duty2 : ({ presumedConfig with duty2 := 0b00011111#8 }).wf = false := by decide
theorem test_wf_refuses_duty3 : ({ presumedConfig with duty3 := 0b11111111#8 }).wf = false := by decide
theorem test_wf_every_event : (Instr.rest .second).wf = true := by decide
theorem test_wf_refuses_pseudo_duty : (Pseudo.duty .first 4 0).wf = false := by decide
theorem test_wf_refuses_pseudo_envelope : (Pseudo.duty .first 0 64).wf = false := by decide
theorem test_wf_refuses_pseudo_enable : (Pseudo.sweep .first 2 0 0 0).wf = false := by decide
theorem test_wf_refuses_pseudo_divider : (Pseudo.sweep .first 0 8 0 0).wf = false := by decide
theorem test_wf_refuses_pseudo_negate : (Pseudo.sweep .first 0 0 2 0).wf = false := by decide
theorem test_wf_refuses_pseudo_shift : (Pseudo.sweep .first 0 0 0 8).wf = false := by decide
theorem test_wf_refuses_pseudo_period : (Pseudo.setPeriod .first 2048 0).wf = false := by decide
theorem test_wf_refuses_pseudo_length : (Pseudo.setPeriod .first 0 32).wf = false := by decide
theorem test_record_refuses_timer : ({ Record.reset with timer := 2049 }).inRange presumedConfig .first = false := by decide
theorem test_record_refuses_divider_period_low :
    ({ Record.reset with sweepDividerPeriod := 0 }).inRange presumedConfig .first = false := by decide
theorem test_record_refuses_divider_period_high :
    ({ Record.reset with sweepDividerPeriod := 9 }).inRange presumedConfig .first = false := by decide
theorem test_record_refuses_divider : ({ Record.reset with sweepDivider := 9 }).inRange presumedConfig .first = false := by decide
theorem test_record_refuses_wrapped_target_on_second : (recordWith 4095).inRange presumedConfig .second = false := by decide

/-! ## Decoding, by words written out from the patterns of R72 -/

/-- `00000c00DDeeeeee` with c = 0, D = 10, e = 111111 (P1: 0x00BF). -/
theorem test_decode_w0 : decodeWord 0b0000000010111111#16 = .event (.w0 .first 0xBF#8) := by decide
/-- `00000c01EPPPNSSS` with c = 1, E = 1, P = 000, N = 1, S = 010 (P3: 0x058A). -/
theorem test_decode_w1 : decodeWord 0b0000010110001010#16 = .event (.w1 .second 0x8A#8) := by decide
/-- `00000c10LLLLLLLL` with c = 0, L = 00010000 (P4: 0x0210). -/
theorem test_decode_w2 : decodeWord 0b0000001000010000#16 = .event (.w2 .first 0x10#8) := by decide
/-- `00000c11nnnnnHHH` with c = 1, n = 00000, H = 100 (P2: 0x0704). -/
theorem test_decode_w3 : decodeWord 0b0000011100000100#16 = .event (.w3 .second 0x04#8) := by decide
theorem test_decode_cyc : decodeWord 0b0001000000000000#16 = .event .cyc := by decide
theorem test_decode_swp : decodeWord 0b0010000000000000#16 = .event .swp := by decide
theorem test_decode_rst : decodeWord 0b0011000000000000#16 = .event .rst := by decide
/-- `01000c0000000000` with c = 1 (P5: 0x4400), and with c = 0. -/
theorem test_decode_snap :
    decodeWord 0b0100010000000000#16 = .event (.snap .second) ∧
    decodeWord 0b0100000000000000#16 = .event (.snap .first) := by decide
/-- `01010c0000000000` with c = 1 (P5: 0x5400), and with c = 0. -/
theorem test_decode_rest :
    decodeWord 0b0101010000000000#16 = .event (.rest .second) ∧
    decodeWord 0b0101000000000000#16 = .event (.rest .first) := by decide
/-- R68: each kind of word that spells no event. -/
theorem test_decode_refuses :
    decodeWord 0x6000#16 = .noEvent .reservedKind ∧ decodeWord 0xF000#16 = .noEvent .reservedKind ∧
    decodeWord 0x0800#16 = .noEvent .bit11Set ∧ decodeWord 0x1001#16 = .noEvent .operandBitsSet ∧
    decodeWord 0x2400#16 = .noEvent .operandBitsSet ∧ decodeWord 0x4001#16 = .noEvent .operandBitsSet ∧
    decodeWord 0x5200#16 = .noEvent .operandBitsSet := by decide
theorem test_decode_table_word : decodeTableWord 16 0x5400 = some (.rest .second) ∧ decodeTableWord 16 0x6000 = none := by
  decide

/-! ## Register writes (95_test_vectors.md, 2.1) -/

theorem test_w0_bf :
    (after (.w0 .first 0xBF#8) .first State.reset).map (fun i => (i.chan.dutyIndex, i.commands)) =
      some (2#2, [.lenInit true, .envInit 0xBF#8]) := by decide
theorem test_w0_keeps_phase :
    (after (.w0 .second 0xFF#8) .second
      (stateWith .second fun ch => { ch with dutyPos := 5#3, timer := 77 })).map
        (fun i => (i.chan.dutyIndex, i.chan.dutyPos, i.chan.timer)) = some (3#2, 5#3, 77) := by decide
theorem test_w1_8a :
    (after (.w1 .first 0x8A#8) .first State.reset).map
      (fun i => (i.chan.sweepEnabled, i.chan.sweepDividerPeriod, i.chan.sweepNegate, i.chan.sweepShift,
        i.chan.sweepReloadPending)) = some (true, 1, true, 2#3, true) := by decide
theorem test_w1_7f_keeps_divider :
    (after (.w1 .second 0x7F#8) .second
      (stateWith .second fun ch => { ch with sweepDivider := 4, sweepTargetPeriod := 99 })).map
        (fun i => (i.chan.sweepEnabled, i.chan.sweepDividerPeriod, i.chan.sweepShift, i.chan.sweepDivider,
          i.chan.sweepTargetPeriod)) = some (false, 8, 7#3, 4, 99) := by decide
theorem test_w2_10 :
    (after (.w2 .first 0x10#8) .first (stateWith .first fun ch => { ch with period := 0x2AB#11, timer := 5 })).map
      (fun i => (i.chan.period, i.chan.timer)) = some (0x210#11, 5) := by decide
theorem test_w2_ff :
    (after (.w2 .second 0xFF#8) .second State.reset).map (fun i => i.chan.period) = some 0x0FF#11 := by decide
theorem test_w3_0a :
    (after (.w3 .first 0x0A#8) .first (stateWith .first fun ch => { ch with period := 0x0FD#11, dutyPos := 3#3 })).map
      (fun i => (i.chan.period, i.chan.timer, i.chan.dutyPos, i.commands)) =
        some (0x2FD#11, 766, 0#3, [.lenLoad 1#5, .envReset]) := by decide
theorem test_w3_ff_largest_timer :
    (after (.w3 .second 0xFF#8) .second (stateWith .second fun ch => { ch with period := 0x0FF#11 })).map
      (fun i => (i.chan.period, i.chan.timer)) = some (0x7FF#11, 2048) := by decide

/-! ## The chip cycle (2.2, 2.3) -/

theorem test_cyc_reloads_at_largest_period :
    (after .cyc .first (stateWith .first fun ch => { ch with period := 2047#11, timer := 1 })).map
      (fun i => i.chan.timer) = some 2048 := by decide
/-- Row 4 of 2.3, and the chip cycle's number as the stamp. -/
theorem test_cyc_sample :
    (after .cyc .second
      (stateWith .second fun ch => { ch with period := 100#11, dutyIndex := 2#2, dutyPos := 5#3 })).map
        (fun i => (i.chan.dutyPos, i.samples)) = some (4#3, [⟨15, 1⟩]) := by decide

/-! ## The sweep (2.4, 2.5) -/

/-- Rows of 2.4: the asymmetry, the wrap at width 12, and the last sum that does not overflow. -/
theorem test_targets :
    sweepTarget presumedConfig .first 256#11 2#3 true = 191 ∧ sweepTarget presumedConfig .second 256#11 2#3 true = 192 ∧
    sweepTarget presumedConfig .first 8#11 0#3 true = 4095 ∧ sweepTarget presumedConfig .second 8#11 0#3 true = 0 ∧
    sweepTarget presumedConfig .first 1365#11 1#3 false = 2047 ∧
    sweepTarget presumedConfig .second 2047#11 7#3 false = 2062 := by decide
/-- 2.5, row 1: pending, apply now, reload. -/
theorem test_swp_pending_applies :
    (after .swp .second (stateWith .second fun ch => { ch with
      period := 256#11, sweepShift := 2#3, sweepDividerPeriod := 3, sweepReloadPending := true, sweepEnabled := true })).map
      (fun i => (i.chan.period, i.chan.sweepDivider, i.chan.sweepReloadPending, i.chan.sweepTargetPeriod)) =
        some (320#11, 3, false, 320) := by decide
/-- 2.4, row `First` 8, 1, negating: commits a result below 8. -/
theorem test_swp_first_commits_below_eight :
    (after .swp .first (stateWith .first fun ch => { ch with
      period := 8#11, sweepShift := 1#3, sweepNegate := true, sweepEnabled := true })).map
      (fun i => (i.chan.period, i.chan.sweepTargetPeriod)) = some (3#11, 3) := by decide

/-! ## Reset and the snapshot port (2.6, P5) -/

theorem test_rst_snap :
    ((nextOf (exec .rst (stateWith .second fun ch => { ch with period := 9#11, sweepEnabled := true }))).bind
      (after (.snap .second) .second)).map (fun i => i.records) = some [Record.reset] := by decide
theorem test_snap_changes_no_channel :
    (after (.snap .first) .first (stateWith .first fun ch => { ch with sweepTargetPeriod := 1536 })).map
      (fun i => (i.chan.sweepTargetPeriod, i.records.map Record.sweepTargetPeriod)) = some (1536, [1536]) := by decide
/-- P5: the record of the stale target 1536 comes back as it was. -/
theorem test_rest_p5 :
    (after (.rest .second) .second
      { State.reset with recordIn := ⟨2#2, 0#3, true, 1, false, 1#3, false, 1, 1536, 1536#11, 1025⟩ }).map
        (fun i => i.chan.toRecord) =
      some ⟨2#2, 0#3, true, 1, false, 1#3, false, 1, 1536, 1536#11, 1025⟩ := by decide
theorem test_rest_refuses :
    refusalOf (exec (.rest .second) { State.reset with recordIn := recordWith 4095 }) =
      some (.recordOutsideInvariants .second) := by decide

/-! ## The boundary and the driver's sequences -/

/-- R44: the last byte of `Second`'s window. -/
theorem test_store_routes :
    routeStore presumedConfig 0x4007 0x55#8 = some (.w3 .second 0x55#8) ∧
    routeStore presumedConfig 0x4000 0x55#8 = some (.w0 .first 0x55#8) ∧
    routeStore presumedConfig 0x4008 0x55#8 = none ∧ routeStore presumedConfig 0x3FFF 0x55#8 = none := by decide
/-- R55: stores, then the tick, then the cycle. -/
theorem test_chip_cycle_order :
    chipCycle [(0x4002, 1#8), (0x4003, 2#8)] true =
      [.store 0x4002 1#8, .store 0x4003 2#8, .word 0x2000#16, .word 0x1000#16] := by decide
/-- R71: `SETP F, 0x2FD, 1` is `W2 F, 0xFD` then `W3 F, 0x0A`. -/
theorem test_setp_expands :
    (Pseudo.setPeriod .first 0x2FD 1).expand = [.w2 .first 0xFD#8, .w3 .first 0x0A#8] := by decide
/-- The step that runs a placed word takes the port values as they are. -/
theorem test_fetch_word :
    (nextOf (step ((stateWith .first id).withFetchWord 16 0x00BF))).map
      (fun s => (s.first.chan.dutyIndex, s.first.vol, s.input)) = some (2#2, 15, []) := by decide

/-! ## Witnesses: each meets every hypothesis of the statement it is named after -/

theorem witness_EncodeOfDecode : decodeWord 0x0704#16 = .event (.w3 .second 0x04#8) := by decide

theorem witness_OpcodeTableIsTheDecoder :
    0x04BF#16 &&& (opcodeRow (.w0 .first 0#8)).mask = (opcodeRow (.w0 .first 0#8)).value ∧
    0x04BF#16 &&& (opcodeRow (.w0 .second 9#8)).mask = (opcodeRow (.w0 .second 9#8)).value := by decide

theorem witness_StepRunsTheDecodedEvent :
    (stateAsked (.word 0x1000#16)).input = ⟨.word 0x1000#16, 3, 5, Record.reset⟩ :: [] ∧
    decodeWord 0x1000#16 = .event .cyc := ⟨rfl, by decide⟩

theorem witness_StepRefusesAtItsBoundary_word :
    (stateAsked (.word 0x6000#16)).input = ⟨.word 0x6000#16, 3, 5, Record.reset⟩ :: [] ∧
    decodeWord 0x6000#16 = .noEvent .reservedKind := ⟨rfl, by decide⟩

theorem witness_StepRefusesAtItsBoundary_load :
    (stateAsked (.load 0x4007)).input = ⟨.load 0x4007, 3, 5, Record.reset⟩ :: [] ∧
    (stateAsked (.load 0x4007)).config.base ≤ 0x4000 ∧ 0x4007 < (stateAsked (.load 0x4007)).config.base + 8 :=
  ⟨rfl, by decide, by decide⟩

theorem witness_StepOnEmptyInputHoldsTheState : State.reset.input = [] := rfl

theorem witness_StoreReachesOneInstance :
    (stateAsked (.store 0x4007 1#8)).input = ⟨.store (0x4000 + 4 + 3) 1#8, 3, 5, Record.reset⟩ :: [] ∧
    (stateAsked (.store 0x4007 1#8)).config.base = 0x4000 ∧ 3 < 4 := ⟨rfl, rfl, by decide⟩

theorem witness_AccessOutsideTheWindowsChangesNoChannel :
    (stateAsked (.load 0x4008)).input = ⟨.load 0x4008, 3, 5, Record.reset⟩ :: [] ∧
    0x3FFF < (stateAsked (.load 0x4008)).config.base ∧ (stateAsked (.load 0x4008)).config.base + 8 ≤ 0x4008 :=
  ⟨rfl, by decide, by decide⟩

theorem witness_FetchedWordRunsInTheSameState : decodeTableWord 16 0x4400 = some (.snap .second) := by decide

theorem witness_RegisterWritesFrame : ∃ t, exec (.w3 .first 1#8) State.reset = .next t := ⟨_, rfl⟩

theorem witness_W2AndW0AreIdempotentOnTheChannel :
    (∃ t, exec (.w2 .first 1#8) State.reset = .next t) ∧ ∃ t, exec (.w0 .first 1#8) State.reset = .next t :=
  ⟨⟨_, rfl⟩, ⟨_, rfl⟩⟩

theorem witness_CycleBeforeExpiryCountsDown :
    1 < ((stateWith .first fun ch => { ch with timer := 2 }).inst .first).chan.timer := by decide

theorem witness_CycleAtExpiryClocks :
    ((stateWith .first fun ch => { ch with timer := 1 }).inst .first).chan.timer ≤ 1 ∧
    (State.reset.inst .first).chan.timer ≤ 1 := by decide

/-- The three causes of `CausesOfSilenceAtAClock` at boundary values, with the timer expired in each. -/
theorem witness_CausesOfSilenceAtAClock :
    ((stateWith .second fun ch => { ch with period := 7#11 }).inst .second).chan.period.toNat < 8 ∧
    2047 < (1024#11).toNat + (1024#11).toNat / 2 ^ (0#3).toNat ∧
    ((stateWith .first fun ch => { ch with sweepNegate := true, period := 8#11 }).inst .first).chan.identity = .first ∧
    ((stateWith .first fun ch => { ch with sweepNegate := true, period := 8#11 }).inst .first).chan.sweepShift = 0#3 ∧
    ((stateWith .first fun ch => { ch with sweepNegate := true, period := 8#11 }).inst .first).chan.timer ≤ 1 := by decide

/-- The case of `CausesOfSilenceAtAClock` with none of the causes: the smallest period that sounds. -/
theorem witness_CausesOfSilenceAtAClock_none :
    ¬ (8#11).toNat < 8 ∧ ¬ 2047 < (8#11).toNat + (8#11).toNat / 2 ^ (0#3).toNat ∧
    ((stateWith .second fun ch => { ch with period := 8#11 }).inst .second).chan.identity ≠ .first := by decide

theorem witness_SampleIsZeroOrTheVolume :
    (after .cyc .second (stateWith .second fun ch => { ch with period := 100#11 })).map
      (fun i => i.chan.muted) = some false := by decide

theorem witness_ClockRunsEveryPeriodPlusOneCycles :
    ((stateWith .first fun ch => { ch with period := 8#11, timer := 9 }).inst .first).chan.timer =
      ((stateWith .first fun ch => { ch with period := 8#11, timer := 9 }).inst .first).chan.period.toNat + 1 := by decide

/-- For `WaveformAfterRestart` and `FullWaveformHasItsDutyFraction`: a `W3` that leaves an unmuted channel, a table as R25
has it, and a volume that is not 0. -/
theorem witness_WaveformAfterRestart :
    ∃ u, exec (.w3 .second 0#8) (stateWith .second fun ch => { ch with period := 8#11 }) = .next u ∧
      ¬ (u.inst .second).chan.SilentNow u.config ∧ presumedConfig.wf = true ∧
      volOf (15, 15) .second % 2 ^ presumedConfig.vw ≠ 0 := by
  refine ⟨_, rfl, ?_, by decide, by decide⟩
  unfold Channel.SilentNow
  decide

theorem witness_TargetValues : (0#3 = 0#3 ∨ 8#11 = 0#11) ∧ ¬ (1#3 = 0#3 ∨ 1#11 = 0#11) := by decide

/-- Both sides of the guard of `RecomputeStoresTheTargetAndGuardsTheCommit`, at its bounds. -/
theorem witness_RecomputeStoresTheTargetAndGuardsTheCommit :
    (0 < (1#3).toNat ∧ 8 ≤ (1365#11).toNat ∧ sweepTarget presumedConfig .second 1365#11 1#3 false ≤ 2047) ∧
    (0 < (1#3).toNat ∧ 8 ≤ (8#11).toNat ∧ sweepTarget presumedConfig .first 8#11 1#3 true ≤ 2047) ∧
    ¬ sweepTarget presumedConfig .second 1366#11 1#3 false ≤ 2047 := by decide

/-- The five branches of `SweepTickDecisionTree` exclude each other by their form; a channel for each. -/
theorem witness_SweepTickDecisionTree :
    (∃ ch : Channel, ch.sweepReloadPending = true ∧ ch.sweepDivider = 0 ∧ ch.sweepEnabled = true) ∧
    (∃ ch : Channel, ch.sweepReloadPending = true ∧ (ch.sweepDivider ≠ 0 ∨ ch.sweepEnabled = false)) ∧
    (∃ ch : Channel, ch.sweepReloadPending = false ∧ 0 < ch.sweepDivider) ∧
    (∃ ch : Channel, ch.sweepReloadPending = false ∧ ch.sweepDivider = 0 ∧ ch.sweepEnabled = true) ∧
    (∃ ch : Channel, ch.sweepReloadPending = false ∧ ch.sweepDivider = 0 ∧ ch.sweepEnabled = false) :=
  ⟨⟨{ Channel.reset .first with sweepReloadPending := true, sweepEnabled := true }, rfl, rfl, rfl⟩,
    ⟨{ Channel.reset .first with sweepReloadPending := true, sweepDivider := 1 }, rfl, .inl (by decide)⟩,
    ⟨{ Channel.reset .first with sweepDivider := 1 }, rfl, by decide⟩,
    ⟨{ Channel.reset .first with sweepEnabled := true }, rfl, rfl, rfl⟩,
    ⟨Channel.reset .first, rfl, rfl, rfl⟩⟩

theorem witness_SweepTickFrame : ∃ t, exec .swp State.reset = .next t := ⟨_, rfl⟩

theorem witness_SweepAppliesEveryDividerPeriodPlusOneTicks :
    let s := stateWith .second fun ch => { ch with sweepEnabled := true, sweepDivider := 1 }
    (s.inst .second).chan.sweepEnabled = true ∧ (s.inst .second).chan.sweepReloadPending = false ∧
    (s.inst .second).chan.sweepDivider = (s.inst .second).chan.sweepDividerPeriod := by decide

/-- The enabling byte of `W1ThenTickAppliesOnlyAtDividerZero`, with both states of the divider. -/
theorem witness_W1ThenTickAppliesOnlyAtDividerZero :
    (0x81#8).getLsbD 7 = true ∧ (State.reset.inst .first).chan.sweepDivider = 0 ∧
    ((stateWith .first fun ch => { ch with sweepDivider := 1 }).inst .first).chan.sweepDivider ≠ 0 := by decide

theorem witness_DisabledSweepOnlyCounts : (State.reset.inst .first).chan.sweepEnabled = false := rfl

/-- The causes of `SilenceLastsUntilTheNextWrite`, each alone at a boundary value: the period below 8, the overflow of the
sum with shift 0 (R102, the example), and the wrapped target of `First` (R179; the spec's decision D4, log 9). -/
theorem witness_SilenceLastsUntilTheNextWrite :
    (∀ i ∈ [Instr.cyc, Instr.swp], i = .cyc ∨ i = .swp) ∧
    ((stateWith .second fun ch => { ch with period := 7#11 }).inst .second).chan.SilentNow State.reset.config ∧
    ((stateWith .second fun ch => { ch with period := 1024#11 }).inst .second).chan.SilentNow State.reset.config ∧
    ((stateWith .first fun ch => { ch with period := 8#11, sweepNegate := true }).inst .first).chan.SilentNow
      State.reset.config :=
  ⟨by decide, .inl (by decide), .inr (by decide), .inr (by decide)⟩

/-- The causes of `SilenceLastsUntilTheNextWrite` end where they should: one below the overflow, and `Second` negating with
shift 0, are not silent. -/
theorem witness_SilenceLastsUntilTheNextWrite_not :
    ¬ ((stateWith .second fun ch => { ch with period := 1023#11 }).inst .second).chan.SilentNow State.reset.config ∧
    ¬ ((stateWith .second fun ch => { ch with period := 8#11, sweepNegate := true }).inst .second).chan.SilentNow
      State.reset.config := by
  unfold Channel.SilentNow
  decide

theorem witness_TargetWidthIsUnobservable :
    (∀ c, Instr.cyc ≠ .snap c ∧ Instr.cyc ≠ .rest c) ∧ ∃ t, exec .cyc State.reset = .next t :=
  ⟨fun c => by cases c <;> decide, _, rfl⟩

/-- Records for `RestoreAssignsTheRecord`: the largest unwrapped target, and the wrapped one at `First`. -/
theorem witness_RestoreAssignsTheRecord :
    (recordWith 4094).timer ≤ 2048 ∧ 1 ≤ (recordWith 4094).sweepDividerPeriod ∧
    (recordWith 4094).sweepDividerPeriod ≤ 8 ∧ (recordWith 4094).sweepDivider ≤ 8 ∧
    (recordWith 4094).sweepTargetPeriod ≤ 4094 ∧
    ((State.reset.inst .first).chan.identity = .first ∧
      (recordWith 4095).sweepTargetPeriod = 2 ^ State.reset.config.tw - 1) := by decide

/-- A state with a chip cycle waiting meets the invariants that the statements take as a premise (`SnapshotRestoreRoundTrip`,
`StepKeepsTheInvariants`), with a snapshot and a step to go with them. -/
theorem witness_State_Inv :
    (∃ s : State, s.Inv ∧ (∃ t, exec (.snap .first) s = .next t ∧
      (t.inst .first).records = (s.inst .first).records ++ [s.recordIn]) ∧ ∃ t, step s = .next t) := by
  refine ⟨stateAsked (.word 0x1000#16), ⟨?_, ?_⟩, ⟨_, rfl, rfl⟩, _, rfl⟩
  · exact ⟨rfl, by decide, by decide, by decide, by decide, .inl (by decide), by decide⟩
  · exact ⟨rfl, by decide, by decide, by decide, by decide, .inl (by decide), by decide⟩

theorem witness_AfterResetOnlySilence : ∃ u, exec .rst State.reset = .next u := ⟨_, rfl⟩

/-- The two ends of the range of `StartUpSequenceSounds`: period 8 and period 1023. -/
theorem witness_StartUpSequenceSounds :
    (8 ≤ (0#8).toNat % 8 * 256 + (8#8).toNat ∧ (0#8).toNat % 8 * 256 + (8#8).toNat < 1024) ∧
    (8 ≤ (3#8).toNat % 8 * 256 + (255#8).toNat ∧ (3#8).toNat % 8 * 256 + (255#8).toNat < 1024) := by decide

theorem witness_StepKeepsIdentityAndParameters : ∃ t, step (stateAsked (.word 0x3000#16)) = .next t := ⟨_, rfl⟩

/-- For `OnlyTheNamedMutatorsChangeAField`, `OutputsOfEachEvent` and `VolumeReachesOnlyAmplitudes`. -/
theorem witness_events_that_complete :
    (∃ t, exec .cyc State.reset = .next t) ∧ ∃ t, exec (.rest .first) State.reset = .next t := ⟨⟨_, rfl⟩, ⟨_, rfl⟩⟩

/-- For `InstancesAreIsolated`: two states that agree on `First` and differ on `Second`. -/
theorem witness_InstancesAreIsolated :
    let s := State.reset.withVols (15, 15)
    let s' := stateWith .second fun ch => { ch with period := 5#11 }
    s.inst .first = s'.inst .first ∧ s.config = s'.config ∧ s.cycleIndex = s'.cycleIndex ∧ s.recordIn = s'.recordIn ∧
    s.inst .second ≠ s'.inst .second ∧ (∃ t, exec .cyc s = .next t) ∧ ∃ t, exec .cyc s' = .next t :=
  ⟨rfl, rfl, rfl, rfl, by decide, ⟨_, rfl⟩, ⟨_, rfl⟩⟩

theorem witness_PseudoOperationsSetTheirFields :
    (Pseudo.duty .first 3 63).wf = true ∧ (Pseudo.sweep .first 1 7 1 7).wf = true ∧
    (Pseudo.setPeriod .first 2047 31).wf = true := by decide

/-- The clauses of `ClockStepsDownThenSamples`, one channel each: both causes of silence and neither at their bounds, a
pattern bit of 0, and a volume of 0. -/
theorem witness_ClockStepsDownThenSamples :
    ((stateWith .first fun ch => { ch with period := 7#11 }).inst .first).chan.period.toNat < 8 ∧
    2047 < ((stateWith .first fun ch => { ch with sweepTargetPeriod := 2048 }).inst .first).chan.sweepTargetPeriod ∧
    (let s := stateWith .first fun ch => { ch with period := 8#11, sweepTargetPeriod := 2047 }
     ¬ ((s.inst .first).chan.period.toNat < 8 ∨ 2047 < (s.inst .first).chan.sweepTargetPeriod)) ∧
    dutyBit presumedConfig 2#2 5#3 = false ∧ dutyBit presumedConfig 2#2 4#3 = true ∧
    State.reset.first.vol % 2 ^ presumedConfig.vw = 0 := by decide

end Sys2Proof.Machine.Tests
end

section
/-! SUPPORT. Proofs of the family `00_scope.md`: how a word at the head of the queue reaches `exec` (R8, R36), and what each
event appends to the three traces of an instance (R7, R30 to R35). -/

namespace Sys2Proof.Machine

/-! ## From the head of the queue to `exec` -/

/-- Fetch, decode and dispatch of an event word, in one equation (R8). -/
theorem step_of_word {s : State} {e : Input} {later : List Input} {w : EventWord} {i : Instr}
    (hin : s.input = e :: later) (hreq : e.request = .word w) (hdec : decodeWord w = .event i) :
    step s = exec i (s.present e later) := by
  simp [step, State.fetch, State.perform, hin, hreq, hdec]

/-- A 16-bit table word is read by the decoder of event words. -/
theorem decodeWord_of_decodeTableWord {w : Nat} {i : Instr} (h : decodeTableWord 16 w = some i) :
    decodeWord (BitVec.ofNat 16 (w % 2 ^ 16)) = .event i := by
  have hw : w % 2 ^ 16 < 65536 := Nat.mod_lt _ (by decide)
  unfold decodeTableWord at h
  generalize w % 2 ^ 16 = v at h hw ⊢
  cases hd : decodeWord (BitVec.ofNat 16 v) with
  | event j => simpa [hw, hd] using h
  | noEvent x => simp [hd] at h

/-! ## The traces after each operation on an instance -/

section Traces
variable (cfg : Config) (stamp : Nat) (b : Byte) (r : Record) (i : Instance)

@[simp] theorem Instance.writeDuty_samples : (i.writeDuty cfg b).samples = i.samples := rfl
@[simp] theorem Instance.writeDuty_commands :
    (i.writeDuty cfg b).commands = i.commands ++ [.lenInit (b.getLsbD cfg.haltBit), .envInit b] :=
  List.append_assoc ..
@[simp] theorem Instance.writeDuty_records : (i.writeDuty cfg b).records = i.records := rfl

@[simp] theorem Instance.writeSweep_samples : (i.writeSweep b).samples = i.samples := rfl
@[simp] theorem Instance.writeSweep_commands : (i.writeSweep b).commands = i.commands := rfl
@[simp] theorem Instance.writeSweep_records : (i.writeSweep b).records = i.records := rfl

@[simp] theorem Instance.writePeriodLow_samples : (i.writePeriodLow b).samples = i.samples := rfl
@[simp] theorem Instance.writePeriodLow_commands : (i.writePeriodLow b).commands = i.commands := rfl
@[simp] theorem Instance.writePeriodLow_records : (i.writePeriodLow b).records = i.records := rfl

@[simp] theorem Instance.writePeriodHigh_samples : (i.writePeriodHigh b).samples = i.samples := rfl
@[simp] theorem Instance.writePeriodHigh_commands :
    (i.writePeriodHigh b).commands = i.commands ++ [.lenLoad (b.extractLsb' 3 5), .envReset] :=
  List.append_assoc ..
@[simp] theorem Instance.writePeriodHigh_records : (i.writePeriodHigh b).records = i.records := rfl

@[simp] theorem Instance.tickSweep_samples : (i.tickSweep cfg).samples = i.samples := rfl
@[simp] theorem Instance.tickSweep_commands : (i.tickSweep cfg).commands = i.commands := rfl
@[simp] theorem Instance.tickSweep_records : (i.tickSweep cfg).records = i.records := rfl

@[simp] theorem Instance.restart_samples : i.restart.samples = i.samples := rfl
@[simp] theorem Instance.restart_commands : i.restart.commands = i.commands := rfl
@[simp] theorem Instance.restart_records : i.restart.records = i.records := rfl

@[simp] theorem Instance.snapshot_samples : i.snapshot.samples = i.samples := rfl
@[simp] theorem Instance.snapshot_commands : i.snapshot.commands = i.commands := rfl
@[simp] theorem Instance.snapshot_records : i.snapshot.records = i.records ++ [i.chan.toRecord] := rfl

@[simp] theorem Instance.restore_samples : (i.restore r).samples = i.samples := rfl
@[simp] theorem Instance.restore_commands : (i.restore r).commands = i.commands := rfl
@[simp] theorem Instance.restore_records : (i.restore r).records = i.records := rfl

@[simp] theorem Instance.cycle_commands : (i.cycle cfg stamp).commands = i.commands := by
  rcases Nat.lt_or_ge 1 i.chan.timer with h | h
  · rw [Instance.cycle_of_lt cfg stamp i h]
  · rw [Instance.cycle_of_le cfg stamp i h]

@[simp] theorem Instance.cycle_records : (i.cycle cfg stamp).records = i.records := by
  rcases Nat.lt_or_ge 1 i.chan.timer with h | h
  · rw [Instance.cycle_of_lt cfg stamp i h]
  · rw [Instance.cycle_of_le cfg stamp i h]

/-- A cycle before expiry emits nothing (R101). -/
theorem Instance.cycle_samples_of_lt (h : 1 < i.chan.timer) : (i.cycle cfg stamp).samples = i.samples := by
  rw [Instance.cycle_of_lt cfg stamp i h]

/-- A cycle at expiry emits one sample, with the stamp of the cycle (R103, R104). -/
theorem Instance.cycle_samples_of_le (h : i.chan.timer ≤ 1) :
    ∃ a, (i.cycle cfg stamp).samples = i.samples ++ [⟨a, stamp⟩] := by
  rw [Instance.cycle_of_le cfg stamp i h]
  exact ⟨_, rfl⟩

end Traces

/-! ## The traces after each event -/

/-- The commands an event sends to the collaborator of the instance `c` (R30 to R33). -/
def Instr.commandsTo (cfg : Config) (c : Identity) : Instr → List Command
  | .w0 d b => if d = c then [.lenInit (b.getLsbD cfg.haltBit), .envInit b] else []
  | .w3 d b => if d = c then [.lenLoad (b.extractLsb' 3 5), .envReset] else []
  | _ => []

variable (s : State) (c : Identity) (i : Instr)

/-- `CYC` runs one chip cycle at each instance (R100). -/
@[simp] theorem State.instAfter_cyc :
    s.instAfter c .cyc = (s.inst c).cycle s.config (s.cycleIndex + 1) := rfl

/-- `W0` and `W3` alone send commands, each to its own instance. -/
theorem State.instAfter_commands :
    (s.instAfter c i).commands = (s.inst c).commands ++ Instr.commandsTo s.config c i := by
  cases i with
  | cyc | swp | rst => simp [State.instAfter, Instr.commandsTo]
  | w0 d b | w1 d b | w2 d b | w3 d b | snap d | rest d =>
    by_cases hd : d = c
    · subst hd; simp [State.instAfter, Instr.commandsTo]
    · simp [State.instAfter, Instr.commandsTo, hd, Ne.symm hd]

/-- `SNAP` alone answers a record, that of its own instance (R141). -/
theorem State.instAfter_records :
    (s.instAfter c i).records =
      (s.inst c).records ++ (if i = .snap c then [(s.inst c).chan.toRecord] else []) := by
  cases i with
  | cyc | swp | rst => simp [State.instAfter]
  | w0 d b | w1 d b | w2 d b | w3 d b | snap d | rest d =>
    by_cases hd : d = c
    · subst hd; simp [State.instAfter]
    · simp [State.instAfter, hd, Ne.symm hd]

/-- No event but `CYC` emits a sample (R104). -/
theorem State.instAfter_samples_of_ne_cyc (h : i ≠ .cyc) :
    (s.instAfter c i).samples = (s.inst c).samples := by
  cases i with
  | cyc => exact absurd rfl h
  | swp | rst => simp [State.instAfter]
  | w0 d b | w1 d b | w2 d b | w3 d b | snap d | rest d =>
    by_cases hd : c = d <;> simp [State.instAfter, hd]

end Sys2Proof.Machine

/-! ## The statements -/

open Sys2Proof Sys2Proof.Machine

/-- Settles O6, by the equation of `step` at an event word. -/
theorem stepRunsTheDecodedEvent : Obligations.StepRunsTheDecodedEvent := by
  intro s e later w i hin hreq hdec
  exact ⟨step_of_word hin hreq hdec, rfl⟩

/-- Settles O11: the placed entry is the head of the queue, and presenting it gives back the state before placing. -/
theorem fetchedWordRunsInTheSameState : Obligations.FetchedWordRunsInTheSameState := by
  intro s w i h
  have hstep := step_of_word (s := s.withFetchWord 16 w) rfl rfl (decodeWord_of_decodeTableWord h)
  rwa [State.withFetchWord, State.present_inputOfWord] at hstep

/-- Settles O52, from the inversion lemma of `exec` and the trace lemmas of `instAfter`. -/
theorem outputsOfEachEvent : Obligations.OutputsOfEachEvent := by
  intro i s t c h
  obtain ⟨-, -, -, -, hinst⟩ := exec_next h
  rw [hinst c]
  refine ⟨State.instAfter_commands s c i, ?_, ?_, ?_⟩
  · rw [State.instAfter_records]; split <;> simp
  · rw [State.instAfter_records]; exact List.prefix_append ..
  · by_cases hi : i = .cyc
    · subst hi
      rcases Nat.lt_or_ge 1 (s.inst c).chan.timer with hlt | hle
      · simpa [Nat.not_le.mpr hlt] using Instance.cycle_samples_of_lt s.config (s.cycleIndex + 1) _ hlt
      · simpa [hle] using Instance.cycle_samples_of_le s.config (s.cycleIndex + 1) _ hle
    · simpa [hi] using State.instAfter_samples_of_ne_cyc s c i hi

end

section
/-! SUPPORT. Proofs of the family `10_state.md`: what each event leaves of the Channel State (R12 to R25), what the volume
reaches (R34), and the invariants that every step keeps (R37), from the reset values on (R38). -/

namespace Sys2Proof.Machine

/-! ## The Channel State after each operation on an instance -/

section Channels
variable (cfg : Config) (stamp : Nat) (b : Byte) (r : Record) (i : Instance) (ch : Channel)

@[simp] theorem Instance.writeDuty_chan :
    (i.writeDuty cfg b).chan = { i.chan with dutyIndex := dutyField b } := rfl
@[simp] theorem Instance.writeSweep_chan : (i.writeSweep b).chan = i.chan.initializeSweep b := rfl
@[simp] theorem Instance.writePeriodLow_chan :
    (i.writePeriodLow b).chan = { i.chan with period := withPeriodLow i.chan.period b } := rfl
@[simp] theorem Instance.writePeriodHigh_chan :
    (i.writePeriodHigh b).chan =
      { i.chan with
        period := withPeriodHigh i.chan.period b
        timer := (withPeriodHigh i.chan.period b).toNat + 1
        dutyPos := 0#3 } := rfl
@[simp] theorem Instance.tickSweep_chan : (i.tickSweep cfg).chan = i.chan.tickSweep cfg := rfl
@[simp] theorem Instance.restart_chan : i.restart.chan = Channel.reset i.chan.identity := rfl
@[simp] theorem Instance.snapshot_chan : i.snapshot.chan = i.chan := rfl
@[simp] theorem Instance.restore_chan : (i.restore r).chan = Channel.ofRecord i.chan.identity r := rfl
@[simp] theorem Channel.reset_identity (c : Identity) : (Channel.reset c).identity = c := rfl

/-- A chip cycle refreshes the target, and moves the timer and, at expiry, the duty position (R100, R101, R103). -/
theorem Instance.cycle_chan :
    (i.cycle cfg stamp).chan =
      { i.chan with
        sweepTargetPeriod := i.chan.freshTarget cfg
        timer := if i.chan.timer ≤ 1 then i.chan.period.toNat + 1 else i.chan.timer - 1
        dutyPos := if i.chan.timer ≤ 1 then i.chan.dutyPos - 1#3 else i.chan.dutyPos } := by
  rcases Nat.lt_or_ge 1 i.chan.timer with h | h
  · simp [Instance.cycle_of_lt cfg stamp i h, Nat.not_le.mpr h]
  · simp [Instance.cycle_of_le cfg stamp i h, h]

/-- A sweep tick moves four fields only: divider, pending flag, target and period (R126). -/
theorem Channel.tickSweep_frame :
    ch.tickSweep cfg =
      { ch with
        sweepDivider := (ch.tickSweep cfg).sweepDivider
        sweepReloadPending := (ch.tickSweep cfg).sweepReloadPending
        sweepTargetPeriod := (ch.tickSweep cfg).sweepTargetPeriod
        period := (ch.tickSweep cfg).period } := by
  rcases ch.tickSweep_cases cfg with ⟨-, -, -, h⟩ | ⟨-, -, h⟩ | ⟨-, -, h⟩ | ⟨-, -, -, h⟩ | ⟨-, -, -, h⟩ <;>
    simp only [h, Channel.recomputeTarget_true]

@[simp] theorem Channel.tickSweep_identity : (ch.tickSweep cfg).identity = ch.identity := by
  rw [ch.tickSweep_frame cfg]
@[simp] theorem Channel.tickSweep_timer : (ch.tickSweep cfg).timer = ch.timer := by
  rw [ch.tickSweep_frame cfg]
@[simp] theorem Channel.tickSweep_dutyIndex : (ch.tickSweep cfg).dutyIndex = ch.dutyIndex := by
  rw [ch.tickSweep_frame cfg]
@[simp] theorem Channel.tickSweep_dutyPos : (ch.tickSweep cfg).dutyPos = ch.dutyPos := by
  rw [ch.tickSweep_frame cfg]
@[simp] theorem Channel.tickSweep_sweepEnabled : (ch.tickSweep cfg).sweepEnabled = ch.sweepEnabled := by
  rw [ch.tickSweep_frame cfg]
@[simp] theorem Channel.tickSweep_sweepNegate : (ch.tickSweep cfg).sweepNegate = ch.sweepNegate := by
  rw [ch.tickSweep_frame cfg]
@[simp] theorem Channel.tickSweep_sweepShift : (ch.tickSweep cfg).sweepShift = ch.sweepShift := by
  rw [ch.tickSweep_frame cfg]
@[simp] theorem Channel.tickSweep_sweepDividerPeriod :
    (ch.tickSweep cfg).sweepDividerPeriod = ch.sweepDividerPeriod := by
  rw [ch.tickSweep_frame cfg]

/-- No sweep tick leaves a reload pending (R23). -/
@[simp] theorem Channel.tickSweep_sweepReloadPending : (ch.tickSweep cfg).sweepReloadPending = false := by
  rcases ch.tickSweep_cases cfg with ⟨-, -, -, h⟩ | ⟨-, -, h⟩ | ⟨hp, -, h⟩ | ⟨hp, -, -, h⟩ | ⟨hp, -, -, h⟩
  · rw [h]
  · rw [h]
  · rw [h]; exact hp
  · rw [h, Channel.recomputeTarget_true]; exact hp
  · rw [h]; exact hp

/-- A sweep tick counts the divider down or reloads it, or leaves it (R126). -/
theorem Channel.tickSweep_sweepDivider :
    (ch.tickSweep cfg).sweepDivider ≤ ch.sweepDivider ∨
      (ch.tickSweep cfg).sweepDivider = ch.sweepDividerPeriod := by
  rcases ch.tickSweep_cases cfg with ⟨-, -, -, h⟩ | ⟨-, -, h⟩ | ⟨-, -, h⟩ | ⟨-, -, -, h⟩ | ⟨-, -, -, h⟩
  · rw [h]; exact .inr rfl
  · rw [h]; exact .inr rfl
  · rw [h]; exact .inl (Nat.sub_le ..)
  · rw [h]; exact .inr rfl
  · rw [h]; exact .inl le_rfl

/-- A sweep tick leaves the stored target or stores that of the fields before it (R121, R126). -/
theorem Channel.tickSweep_sweepTargetPeriod :
    (ch.tickSweep cfg).sweepTargetPeriod = ch.sweepTargetPeriod ∨
      (ch.tickSweep cfg).sweepTargetPeriod = ch.freshTarget cfg := by
  rcases ch.tickSweep_cases cfg with ⟨-, -, -, h⟩ | ⟨-, -, h⟩ | ⟨-, -, h⟩ | ⟨-, -, -, h⟩ | ⟨-, -, -, h⟩
  · rw [h, Channel.recomputeTarget_true]; exact .inr rfl
  · rw [h]; exact .inl rfl
  · rw [h]; exact .inl rfl
  · rw [h, Channel.recomputeTarget_true]; exact .inr rfl
  · rw [h]; exact .inl rfl

end Channels

/-! ## The Channel State after each event -/

section Events
variable (s : State) (c : Identity) (i : Instr)

/-- No event changes an identity (R13). -/
theorem State.instAfter_identity : (s.instAfter c i).chan.identity = (s.inst c).chan.identity := by
  cases i with
  | cyc => rw [State.instAfter_cyc, Instance.cycle_chan]
  | swp | rst => simp [State.instAfter]
  | w0 d b | w1 d b | w2 d b | w3 d b | snap d | rest d =>
    by_cases hd : c = d <;> simp [State.instAfter, hd, Channel.initializeSweep]

/-- What an event leaves of a Channel State depends on that Channel State, the parameters and the record input only. -/
theorem State.instAfter_chan_congr {s s' : State} (hch : (s.inst c).chan = (s'.inst c).chan)
    (hcfg : s.config = s'.config) (hrec : s.recordIn = s'.recordIn) :
    (s.instAfter c i).chan = (s'.instAfter c i).chan := by
  cases i with
  | cyc => simp only [State.instAfter_cyc, Instance.cycle_chan, hch, hcfg]
  | swp | rst => simp [State.instAfter, hch, hcfg]
  | w0 d b | w1 d b | w2 d b | w3 d b | snap d | rest d =>
    by_cases hd : c = d
    · subst hd; simp [State.instAfter, hch, hrec]
    · simp [State.instAfter, hd, hch]

/-- An event completes exactly when it is not a `REST` of a record outside the invariants (D22). -/
theorem exec_completes_iff :
    (∃ t, exec i s = .next t) ↔ ∀ d, i = .rest d → s.recordIn.inRange s.config (s.inst d).chan.identity = true := by
  constructor
  · rintro ⟨t, h⟩ d rfl
    by_contra hr
    rw [exec_rest_of_not_inRange d s (Bool.eq_false_iff.mpr hr)] at h
    cases h
  · intro h
    cases i with
    | rest d => exact ⟨_, exec_rest_of_inRange d s (h d rfl)⟩
    | w0 | w1 | w2 | w3 | cyc | swp | rst | snap => exact ⟨_, rfl⟩

end Events

/-! ## Two writes after one another -/

/-- The later of two replacements of one instance remains. -/
@[simp] theorem State.setInst_setInst (s : State) (c : Identity) (i j : Instance) :
    (s.setInst c i).setInst c j = s.setInst c j := by cases c <;> rfl

/-- The later of two `W1` remains (R23). -/
@[simp] theorem Instance.writeSweep_writeSweep (i : Instance) (b b' : Byte) :
    (i.writeSweep b).writeSweep b' = i.writeSweep b' := rfl

/-! ## Other volumes (R34) -/

section Volumes
variable (s : State) (v : Nat × Nat) (c : Identity)

@[simp] theorem State.withVols_config : (s.withVols v).config = s.config := rfl
@[simp] theorem State.withVols_recordIn : (s.withVols v).recordIn = s.recordIn := rfl
@[simp] theorem State.withVols_cycleIndex : (s.withVols v).cycleIndex = s.cycleIndex := rfl
theorem State.inst_withVols : (s.withVols v).inst c = { s.inst c with vol := volOf v c } := by
  cases c <;> rfl
@[simp] theorem State.withVols_chan : ((s.withVols v).inst c).chan = (s.inst c).chan := by
  rw [State.inst_withVols]
@[simp] theorem State.withVols_samples : ((s.withVols v).inst c).samples = (s.inst c).samples := by
  rw [State.inst_withVols]
@[simp] theorem State.withVols_commands : ((s.withVols v).inst c).commands = (s.inst c).commands := by
  rw [State.inst_withVols]
@[simp] theorem State.withVols_records : ((s.withVols v).inst c).records = (s.inst c).records := by
  rw [State.inst_withVols]

/-- Whether an event completes does not depend on the volumes. -/
theorem exec_withVols_completes {i : Instr} {t : State} (h : exec i s = .next t) :
    ∃ t', exec i (s.withVols v) = .next t' := by
  rw [exec_completes_iff]
  simpa using (exec_completes_iff s i).mp ⟨t, h⟩

/-- A chip cycle stamps the same samples whatever the volumes. -/
theorem State.instAfter_cyc_stamps_withVols :
    ((s.withVols v).instAfter c .cyc).samples.map Sample.atCycle =
      (s.instAfter c .cyc).samples.map Sample.atCycle := by
  simp only [State.instAfter_cyc, State.withVols_config, State.withVols_cycleIndex]
  rcases Nat.lt_or_ge 1 (s.inst c).chan.timer with h | h
  · rw [Instance.cycle_samples_of_lt _ _ _ h, Instance.cycle_samples_of_lt _ _ _ (by simpa using h),
      State.withVols_samples]
  · obtain ⟨a, ha⟩ := Instance.cycle_samples_of_le s.config (s.cycleIndex + 1) _ h
    obtain ⟨a', ha'⟩ := Instance.cycle_samples_of_le s.config (s.cycleIndex + 1) ((s.withVols v).inst c)
      (by simpa using h)
    simp [ha, ha']

end Volumes

/-! ## The invariants (R13, R35, R37) -/

/-- Every target is in the range of R37: below 4095, or the wrapped value of `First` (R123, D4). -/
theorem Channel.freshTarget_range (cfg : Config) (ch : Channel) :
    ch.freshTarget cfg ≤ 4094 ∨ (ch.identity = .first ∧ ch.freshTarget cfg = 2 ^ cfg.tw - 1) :=
  (sweepTarget_range cfg ch.identity ch.period ch.sweepShift ch.sweepNegate).imp_right
    fun ⟨hc, _, ht⟩ => ⟨hc, ht⟩

/-- Each sample a chip cycle adds fits `VW` bits and carries the stamp of the cycle (R35, R105). -/
theorem Instance.mem_cycle_samples {cfg : Config} {stamp : Nat} {i : Instance} {x : Sample}
    (hx : x ∈ (i.cycle cfg stamp).samples) :
    x ∈ i.samples ∨ (x.amplitude < 2 ^ cfg.vw ∧ x.atCycle = stamp) := by
  rcases Nat.lt_or_ge 1 i.chan.timer with h | h
  · rw [Instance.cycle_of_lt cfg stamp i h] at hx
    exact .inl hx
  · rw [Instance.cycle_of_le cfg stamp i h] at hx
    have hvol : i.vol % 2 ^ cfg.vw < 2 ^ cfg.vw := Nat.mod_lt _ (Nat.two_pow_pos _)
    refine (List.mem_append.mp hx).imp_right fun hx => ?_
    rw [List.mem_singleton.mp hx]
    refine ⟨?_, rfl⟩
    show ite _ _ _ < _
    split
    · exact Nat.two_pow_pos _
    · exact (Nat.mul_le_mul_right _ (Bool.toNat_le _)).trans_lt (by rwa [one_mul])

section Invariants
variable {cfg : Config} {now : Nat} {c : Identity} {i : Instance}

theorem Instance.Inv.writeDuty (h : i.Inv cfg now c) (b : Byte) : (i.writeDuty cfg b).Inv cfg now c :=
  { h with }

theorem Instance.Inv.writeSweep (h : i.Inv cfg now c) (b : Byte) : (i.writeSweep b).Inv cfg now c :=
  { h with
    dividerPeriod_pos := Nat.le_add_left ..
    dividerPeriod_le := (dividerField b).isLt }

theorem Instance.Inv.writePeriodLow (h : i.Inv cfg now c) (b : Byte) : (i.writePeriodLow b).Inv cfg now c :=
  { h with }

theorem Instance.Inv.writePeriodHigh (h : i.Inv cfg now c) (b : Byte) : (i.writePeriodHigh b).Inv cfg now c :=
  { h with timer := (withPeriodHigh i.chan.period b).isLt }

theorem Instance.Inv.cycle (h : i.Inv cfg now c) : (i.cycle cfg (now + 1)).Inv cfg (now + 1) c := by
  have hperiod := i.chan.period.isLt
  have htimer := h.timer
  have hchan := Instance.cycle_chan cfg (now + 1) i
  exact
    { identity := by rw [hchan]; exact h.identity
      timer := by rw [hchan]; show ite _ _ _ ≤ _; split <;> omega
      dividerPeriod_pos := by rw [hchan]; exact h.dividerPeriod_pos
      dividerPeriod_le := by rw [hchan]; exact h.dividerPeriod_le
      divider := by rw [hchan]; exact h.divider
      target := by rw [hchan, ← h.identity]; exact i.chan.freshTarget_range cfg
      samples := fun x hx => by
        rcases Instance.mem_cycle_samples hx with hx | ⟨ha, hs⟩
        · exact ⟨(h.samples x hx).1, Nat.le_succ_of_le (h.samples x hx).2⟩
        · exact ⟨ha, hs.le⟩ }

theorem Instance.Inv.tickSweep (h : i.Inv cfg now c) : (i.tickSweep cfg).Inv cfg now c where
  identity := by simpa using h.identity
  timer := by simpa using h.timer
  dividerPeriod_pos := by simpa using h.dividerPeriod_pos
  dividerPeriod_le := by simpa using h.dividerPeriod_le
  divider := by
    rcases i.chan.tickSweep_sweepDivider cfg with hd | hd
    · exact hd.trans h.divider
    · exact hd.trans_le h.dividerPeriod_le
  target := by
    rw [Instance.tickSweep_chan]
    rcases i.chan.tickSweep_sweepTargetPeriod cfg with ht | ht
    · rw [ht]; exact h.target
    · rw [ht, ← h.identity]; exact i.chan.freshTarget_range cfg
  samples := h.samples

/-- The reset values are within the invariants (R37, R38). -/
theorem Instance.Inv.of_chan_reset (hchan : i.chan = Channel.reset c)
    (hsamples : ∀ x ∈ i.samples, x.amplitude < 2 ^ cfg.vw ∧ x.atCycle ≤ now) : i.Inv cfg now c := by
  constructor
  case samples => exact hsamples
  all_goals rw [hchan]; simp [Channel.reset]

theorem Instance.Inv.restart (h : i.Inv cfg now c) : i.restart.Inv cfg now c :=
  .of_chan_reset (by rw [Instance.restart_chan, h.identity]) h.samples

theorem Instance.Inv.snapshot (h : i.Inv cfg now c) : i.snapshot.Inv cfg now c :=
  { h with }

theorem Instance.Inv.restore (h : i.Inv cfg now c) {r : Record} (hr : r.inRange cfg i.chan.identity = true) :
    (i.restore r).Inv cfg now c := by
  rw [h.identity, Record.inRange_iff] at hr
  obtain ⟨htimer, hpos, hle, hdivider, htarget⟩ := hr
  exact ⟨h.identity, htimer, hpos, hle, hdivider, htarget, h.samples⟩

end Invariants

/-- The invariant of the pair is that of each instance. -/
theorem State.inv_iff (s : State) : s.Inv ↔ ∀ c, (s.inst c).Inv s.config s.cycleIndex c :=
  ⟨fun h c => by cases c; exacts [h.first, h.second], fun h => ⟨h .first, h .second⟩⟩

/-- Presenting an input keeps the invariants: they speak of neither the queue, the volumes nor the record input. -/
theorem State.Inv.present {s : State} (h : s.Inv) (e : Input) (later : List Input) : (s.present e later).Inv :=
  ⟨{ h.first with }, { h.second with }⟩

/-- An event other than `CYC` keeps the invariant of each instance, a `REST` if its record is in range (D22). -/
theorem Instance.Inv.instAfter {s : State} {c : Identity} {i : Instr} (hcyc : i ≠ .cyc)
    (hrest : i = .rest c → s.recordIn.inRange s.config (s.inst c).chan.identity = true)
    (h : (s.inst c).Inv s.config s.cycleIndex c) : (s.instAfter c i).Inv s.config s.cycleIndex c := by
  cases i with
  | cyc => exact absurd rfl hcyc
  | swp => exact h.tickSweep
  | rst => exact h.restart
  | w0 d b => simp only [State.instAfter]; split; exacts [h.writeDuty b, h]
  | w1 d b => simp only [State.instAfter]; split; exacts [h.writeSweep b, h]
  | w2 d b => simp only [State.instAfter]; split; exacts [h.writePeriodLow b, h]
  | w3 d b => simp only [State.instAfter]; split; exacts [h.writePeriodHigh b, h]
  | snap d => simp only [State.instAfter]; split; exacts [h.snapshot, h]
  | rest d =>
    simp only [State.instAfter]
    split
    next hd => exact h.restore (hrest (hd ▸ rfl))
    next => exact h

/-- Every event that completes keeps the invariants. -/
theorem State.Inv.exec {i : Instr} {s t : State} (h : s.Inv) (hexec : exec i s = .next t) : t.Inv := by
  rw [State.inv_iff] at h ⊢
  obtain ⟨hcfg, -, -, hnow, hinst⟩ := exec_next hexec
  intro c
  rw [hcfg, hnow, hinst]
  split
  next hcyc => subst hcyc; exact (h c).cycle
  next hcyc => exact (h c).instAfter hcyc ((exec_completes_iff s i).mp ⟨t, hexec⟩ c)

/-! ## Chip cycles one after another (R100 to R107) -/

/-- The state after one chip cycle with the volumes `v` presented. -/
def State.cycled (s : State) (v : Nat × Nat) : State :=
  ((s.withVols v).both (Instance.cycle s.config (s.cycleIndex + 1))).countCycle

/-- The state after a chip cycle for each entry of `vs`. -/
def State.cycledAll (s : State) (vs : List (Nat × Nat)) : State := vs.foldl State.cycled s

/-- Chip cycles always complete (R8). -/
theorem cyclesWith_eq (vs : List (Nat × Nat)) (s : State) : cyclesWith vs s = .next (s.cycledAll vs) := by
  induction vs generalizing s with
  | nil => rfl
  | cons v vs ih => exact ih (s.cycled v)

theorem State.cycledAll_append (s : State) (vs ws : List (Nat × Nat)) :
    s.cycledAll (vs ++ ws) = (s.cycledAll vs).cycledAll ws := List.foldl_append

theorem State.inst_cycled (s : State) (v : Nat × Nat) (c : Identity) :
    (s.cycled v).inst c = ({ s.inst c with vol := volOf v c } : Instance).cycle s.config (s.cycleIndex + 1) := by
  rw [State.cycled, State.inst_countCycle, State.inst_both, State.inst_withVols]

/-- The Channel State with the three fields that a chip cycle writes (R100) blanked out. -/
def Channel.setting (ch : Channel) : Channel :=
  { ch with sweepTargetPeriod := 0, timer := 0, dutyPos := 0#3 }

/-- The amplitude at the duty position `q` when the volume is `vol`: it depends on the setting of the channel alone (R102,
R103). -/
def Channel.levelAt (cfg : Config) (vol : Nat) (ch : Channel) (q : BitVec 3) : Nat :=
  if ch.period.toNat < 8 ∨ 2047 < ch.freshTarget cfg then 0
  else (dutyBit cfg ch.dutyIndex q).toNat * (vol % 2 ^ cfg.vw)

theorem Channel.levelAt_setting (cfg : Config) (vol : Nat) (ch : Channel) :
    ch.setting.levelAt cfg vol = ch.levelAt cfg vol := rfl

theorem Channel.period_setting (ch : Channel) : ch.setting.period = ch.period := rfl

/-- A channel that is not silent sounds the pattern bit times the volume (R103). -/
theorem Channel.levelAt_of_not_silentNow {cfg : Config} {ch : Channel} (h : ¬ ch.SilentNow cfg) (vol : Nat)
    (q : BitVec 3) : ch.levelAt cfg vol q = (dutyBit cfg ch.dutyIndex q).toNat * (vol % 2 ^ cfg.vw) := if_neg h

/-- What chip cycles that emit the amplitudes `heard` at the instance `c` leave of a state `s`: the parameters and the
setting, with the duty position stepped down once for each sample (R103). -/
structure State.Played (c : Identity) (s t : State) (heard : List Nat) : Prop where
  config : t.config = s.config
  setting : (t.inst c).chan.setting = (s.inst c).chan.setting
  dutyPos : (t.inst c).chan.dutyPos = (s.inst c).chan.dutyPos - BitVec.ofNat 3 heard.length
  samples : amplitudes (t.inst c).samples = amplitudes (s.inst c).samples ++ heard

section Cycles
variable {c : Identity} {s t u : State} {heard more : List Nat}

theorem State.Played.refl : State.Played c s s [] := ⟨rfl, rfl, by simp, by simp⟩

theorem State.Played.trans (h : State.Played c s t heard) (h' : State.Played c t u more) :
    State.Played c s u (heard ++ more) where
  config := h'.config.trans h.config
  setting := h'.setting.trans h.setting
  dutyPos := by
    rw [h'.dutyPos, h.dutyPos, List.length_append, BitVec.ofNat_add]
    bv_omega
  samples := by rw [h'.samples, h.samples, List.append_assoc]

theorem State.Played.period (h : State.Played c s t heard) : (t.inst c).chan.period = (s.inst c).chan.period := by
  rw [← Channel.period_setting, h.setting, Channel.period_setting]

theorem State.Played.levelAt (h : State.Played c s t heard) (vol : Nat) :
    (t.inst c).chan.levelAt t.config vol = (s.inst c).chan.levelAt s.config vol := by
  rw [← Channel.levelAt_setting, h.setting, h.config, Channel.levelAt_setting]

/-- A chip cycle before expiry emits nothing and counts down (R101). -/
theorem State.played_cycled_of_lt (v : Nat × Nat) (h : 1 < (s.inst c).chan.timer) :
    State.Played c s (s.cycled v) [] ∧ ((s.cycled v).inst c).chan.timer = (s.inst c).chan.timer - 1 := by
  have hinst := (s.inst_cycled v c).trans (Instance.cycle_of_lt _ _ _ h)
  exact ⟨⟨rfl, by rw [hinst]; rfl, by rw [hinst]; simp, by rw [hinst]; simp⟩, by rw [hinst]⟩

/-- A chip cycle at expiry steps the duty position down, emits the level there and reloads the timer (R101, R103). -/
theorem State.played_cycled_of_le (v : Nat × Nat) (h : (s.inst c).chan.timer ≤ 1) :
    State.Played c s (s.cycled v)
        [(s.inst c).chan.levelAt s.config (volOf v c) ((s.inst c).chan.dutyPos - 1#3)] ∧
      ((s.cycled v).inst c).chan.timer = (s.inst c).chan.period.toNat + 1 := by
  have hinst := (s.inst_cycled v c).trans (Instance.cycle_of_le _ _ _ h)
  exact ⟨⟨rfl, by rw [hinst]; rfl, by rw [hinst]; rfl, by rw [hinst]; exact List.map_append⟩, by rw [hinst]⟩

/-- Chip cycles that end before the timer expires emit nothing and count it down, whatever the volumes (R101). -/
theorem State.played_countdown (vs : List (Nat × Nat)) (h : vs.length < (s.inst c).chan.timer) :
    State.Played c s (s.cycledAll vs) [] ∧
      ((s.cycledAll vs).inst c).chan.timer = (s.inst c).chan.timer - vs.length := by
  induction vs generalizing s with
  | nil => exact ⟨.refl, rfl⟩
  | cons v vs ih =>
    rw [List.length_cons] at h
    obtain ⟨hplayed, htimer⟩ := State.played_cycled_of_lt v (by omega : 1 < (s.inst c).chan.timer)
    obtain ⟨hrest, htimer'⟩ := ih (s := s.cycled v) (by omega)
    exact ⟨hplayed.trans hrest, by rw [List.length_cons]; exact htimer'.trans (by omega)⟩

/-- From a reload on, `period + 1` chip cycles emit one sample and reload again (R106). -/
theorem State.played_round (v : Nat × Nat) (h : (s.inst c).chan.timer = (s.inst c).chan.period.toNat + 1) :
    let t := s.cycledAll (List.replicate ((s.inst c).chan.period.toNat + 1) v)
    State.Played c s t [(s.inst c).chan.levelAt s.config (volOf v c) ((s.inst c).chan.dutyPos - 1#3)] ∧
      (t.inst c).chan.timer = (t.inst c).chan.period.toNat + 1 := by
  intro t
  obtain ⟨hwait, htimer⟩ := State.played_countdown (s := s) (c := c)
    (List.replicate (s.inst c).chan.period.toNat v) (by rw [List.length_replicate, h]; exact Nat.lt_succ_self _)
  rw [h, List.length_replicate, Nat.add_sub_cancel_left] at htimer
  obtain ⟨hclock, hreload⟩ := State.played_cycled_of_le v htimer.le
  rw [hwait.levelAt, hwait.dutyPos] at hclock
  have ht : t = (s.cycledAll (List.replicate (s.inst c).chan.period.toNat v)).cycled v := by
    simp only [t, List.replicate_succ', State.cycledAll_append]; rfl
  rw [ht, hclock.period, hreload]
  exact ⟨by simpa using hwait.trans hclock, rfl⟩

/-- From a reload on, `n` rounds sound the next `n` duty positions downwards (R106, R107). -/
theorem State.played_rounds (v : Nat × Nat) (n : Nat)
    (h : (s.inst c).chan.timer = (s.inst c).chan.period.toNat + 1) :
    let t := s.cycledAll (List.replicate (n * ((s.inst c).chan.period.toNat + 1)) v)
    State.Played c s t ((List.range n).map fun k =>
        (s.inst c).chan.levelAt s.config (volOf v c) ((s.inst c).chan.dutyPos - BitVec.ofNat 3 k - 1#3)) ∧
      (t.inst c).chan.timer = (t.inst c).chan.period.toNat + 1 := by
  induction n with
  | zero => simpa using ⟨State.Played.refl, h⟩
  | succ n ih =>
    obtain ⟨hrounds, htimer⟩ := ih
    have hlast := State.played_round v htimer
    rw [hrounds.levelAt, hrounds.dutyPos, hrounds.period, List.length_map, List.length_range,
      ← State.cycledAll_append, List.replicate_append_replicate, ← Nat.succ_mul] at hlast
    rw [List.range_succ, List.map_append]
    exact ⟨hrounds.trans hlast.1, hlast.2⟩

end Cycles

/-! ## The waveform table (R25) -/

/-- The number of ones in each row of a table as R25 constrains it. -/
theorem onesIn_dutyRow {cfg : Config} (h : cfg.wf = true) (d : BitVec 2) :
    onesIn (dutyRow cfg d) = match d.toNat with | 0 => 1 | 1 => 2 | 2 => 4 | _ => 6 := by
  simp only [Config.wf, Bool.and_eq_true, beq_iff_eq] at h
  obtain ⟨⟨⟨h0, h1⟩, h2⟩, h3⟩ := h
  have hd : d = 0#2 ∨ d = 1#2 ∨ d = 2#2 ∨ d = 3#2 := by revert d; decide
  rcases hd with rfl | rfl | rfl | rfl
  · exact h0
  · exact h1
  · exact h2
  · exact h3

/-- The eight positions below 0, downwards, are 7 to 0, so their pattern bits are those of the row (R107). -/
theorem countP_dutyBit_downwards (cfg : Config) (d : BitVec 2) :
    (List.range 8).countP (fun k => dutyBit cfg d (0#3 - BitVec.ofNat 3 k - 1#3)) = onesIn (dutyRow cfg d) := by
  have hdown : (List.range 8).map (fun k => (0#3 - BitVec.ofNat 3 k - 1#3).toNat) = (List.range 8).reverse := by
    decide
  rw [onesIn, ← List.countP_reverse, ← hdown, List.countP_map]
  rfl

end Sys2Proof.Machine

/-! ## The statements -/

open Sys2Proof Sys2Proof.Machine

/-- Settles O47: presenting an input keeps the invariants, and so does each event. -/
theorem stepKeepsTheInvariants : Obligations.StepKeepsTheInvariants := by
  intro s t hinv hstep
  rcases step_next hstep with ⟨rfl, -⟩ | ⟨e, later, -, rfl | ⟨i, hexec⟩⟩
  · exact hinv
  · exact hinv.present e later
  · exact (hinv.present e later).exec hexec

/-- Settles O17: the later write overwrites all that the earlier one wrote, and no sweep tick leaves a reload pending. -/
theorem reloadFlagIsSetByW1AndClearedByTheTick : Obligations.ReloadFlagIsSetByW1AndClearedByTheTick := by
  refine ⟨fun c b b' s => ⟨_, _, exec_w1 c b s, ?_, exec_w1 c b' _, ?_⟩, fun s => ⟨_, exec_swp s, fun c => ?_⟩⟩
  · rw [State.inst_setInst_self]; rfl
  · rw [exec_w1, State.inst_setInst_self, State.setInst_setInst, Instance.writeSweep_writeSweep]
  · rw [State.inst_both, Instance.tickSweep_chan, Channel.tickSweep_sweepReloadPending]

/-- Settles O27: the eight rounds after the restart sound the eight bits of the row, of which R25 counts the ones. -/
theorem fullWaveformHasItsDutyFraction : Obligations.FullWaveformHasItsDutyFraction := by
  intro s u c b v hexec hwf hsounds hvol
  obtain ⟨hcfg, -, -, -, hinst⟩ := exec_next hexec
  have hu : u.inst c = (s.inst c).writePeriodHigh b := (hinst c).trans (if_pos rfl)
  obtain ⟨hplayed, -⟩ := State.played_rounds (s := u) (c := c) v 8 (by rw [hu]; rfl)
  refine ⟨_, cyclesWith_eq _ u, ?_⟩
  have hheard (k : Nat) :
      (u.inst c).chan.levelAt u.config (volOf v c) ((u.inst c).chan.dutyPos - BitVec.ofNat 3 k - 1#3) ≠ 0 ↔
        dutyBit s.config (s.inst c).chan.dutyIndex (0#3 - BitVec.ofNat 3 k - 1#3) = true := by
    rw [Channel.levelAt_of_not_silentNow hsounds, hcfg, hu]
    simp [hvol]
  have hlen : (s.inst c).samples.length = (amplitudes (u.inst c).samples).length := by
    rw [hu]; simp [amplitudes]
  rw [hplayed.samples, hlen, List.drop_left, List.countP_map]
  calc
    _ = (List.range 8).countP fun k =>
          dutyBit s.config (s.inst c).chan.dutyIndex (0#3 - BitVec.ofNat 3 k - 1#3) :=
      List.countP_congr fun k _ => by simpa using hheard k
    _ = onesIn (dutyRow s.config (s.inst c).chan.dutyIndex) := countP_dutyBit_downwards ..
    _ = _ := onesIn_dutyRow hwf _

/-- Settles O49, from the inversion lemmas of `step` and `exec`. -/
theorem stepKeepsIdentityAndParameters : Obligations.StepKeepsIdentityAndParameters := by
  intro s t hstep
  rcases step_next hstep with ⟨rfl, -⟩ | ⟨e, later, -, rfl | ⟨i, hexec⟩⟩
  · exact ⟨rfl, fun _ => rfl⟩
  · exact ⟨rfl, fun c => by rw [State.present_chan]⟩
  · obtain ⟨hcfg, -, -, -, hinst⟩ := exec_next hexec
    exact ⟨hcfg, fun c => by rw [hinst, State.instAfter_identity, State.present_chan]⟩

/-- Settles O51, event by event, from the equation of the Channel State after each operation. -/
theorem onlyTheNamedMutatorsChangeAField : Obligations.OnlyTheNamedMutatorsChangeAField := by
  intro i s t c hexec
  obtain ⟨-, -, -, -, hinst⟩ := exec_next hexec
  rw [hinst c]
  cases i with
  | cyc => simp [Instance.cycle_chan]
  | swp | rst => simp [State.instAfter]
  | w0 d b | w1 d b | w2 d b | w3 d b | snap d | rest d =>
    by_cases hd : c = d
    · subst hd; simp [State.instAfter, Channel.initializeSweep]
    · simp [State.instAfter, hd]

/-- Settles O54: the event completes with the other volumes too, and each part of an instance but the amplitudes is
computed from what the volumes leave alone. -/
theorem volumeReachesOnlyAmplitudes : Obligations.VolumeReachesOnlyAmplitudes := by
  intro i s t v hexec
  obtain ⟨t', hexec'⟩ := exec_withVols_completes s v hexec
  obtain ⟨hcfg, -, -, hnow, hinst⟩ := exec_next hexec
  obtain ⟨hcfg', -, -, hnow', hinst'⟩ := exec_next hexec'
  refine ⟨t', hexec', hcfg'.trans hcfg.symm, hnow'.trans hnow.symm, fun c => ?_⟩
  rw [hinst, hinst']
  have hsamples (hi : i ≠ .cyc) : ((s.withVols v).instAfter c i).samples = (s.instAfter c i).samples := by
    rw [State.instAfter_samples_of_ne_cyc _ c i hi, State.instAfter_samples_of_ne_cyc s c i hi,
      State.withVols_samples]
  refine ⟨State.instAfter_chan_congr c i (State.withVols_chan s v c) rfl rfl, ?_, ?_, ?_, hsamples⟩
  · rw [State.instAfter_commands, State.instAfter_commands, State.withVols_commands, State.withVols_config]
  · rw [State.instAfter_records, State.instAfter_records, State.withVols_records, State.withVols_chan]
  · by_cases hi : i = .cyc
    · subst hi; exact State.instAfter_cyc_stamps_withVols s v c
    · rw [hsamples hi]

/-- Settles O43, at each of the two instances. -/
theorem resetStateHoldsTheResetValues : Obligations.ResetStateHoldsTheResetValues := by
  intro c
  cases c <;> exact ⟨rfl, rfl, rfl, rfl⟩

/-- Settles O48: both instances stand at the reset values and have emitted nothing. -/
theorem resetMeetsTheInvariants : Obligations.ResetMeetsTheInvariants :=
  ⟨.of_chan_reset rfl nofun, .of_chan_reset rfl nofun⟩

end

section
/-! SUPPORT. Proofs of the family `20_memory.md`: where a bus access at the head of the queue goes (R44, R46, R47), and which
register writes are idempotent (R43). -/

namespace Sys2Proof.Machine

/-! ## The two windows (R44, R47) -/

section Windows
variable {cfg : Config} {a : Nat}

/-- The two windows are the eight addresses from `BASE` on. -/
theorem inWindows_iff : inWindows cfg a = true ↔ cfg.base ≤ a ∧ a < cfg.base + 8 := by
  simp [inWindows]

theorem inWindows_eq_false (h : a < cfg.base ∨ cfg.base + 8 ≤ a) : inWindows cfg a = false := by
  rw [← Bool.not_eq_true, inWindows_iff]
  omega

/-- A store outside the windows is no event (R47). -/
theorem routeStore_eq_none (b : Byte) (h : a < cfg.base ∨ cfg.base + 8 ≤ a) : routeStore cfg a b = none := by
  simp [routeStore, inWindows_eq_false h]

/-- A store to `BASE + 4*c + o` is the write at offset `o` of the instance with the bit `c` (R44). -/
theorem routeStore_window (cfg : Config) (c : Identity) {o : Nat} (b : Byte) (ho : o < 4) :
    routeStore cfg (cfg.base + 4 * (bitOfIdentity c).toNat + o) b = some (writeEvent c o b) := by
  have hin : inWindows cfg (cfg.base + 4 * (bitOfIdentity c).toNat + o) = true := by
    have hbit := (bitOfIdentity c).isLt
    rw [inWindows_iff]
    omega
  rw [routeStore, if_pos hin]
  cases c with
  | first => simp [bitOfIdentity, ho, Nat.mod_eq_of_lt ho]
  | second => simp [bitOfIdentity, Nat.add_assoc, Nat.mod_eq_of_lt ho]

end Windows

/-! ## From a bus access at the head of the queue to `exec` -/

section Accesses
variable {s : State} {e : Input} {later : List Input} {a : Nat} {b : Byte}

/-- A store that is routed to an event runs it (R57). -/
theorem step_of_store_some {i : Instr} (hin : s.input = e :: later) (hreq : e.request = .store a b)
    (hroute : routeStore s.config a b = some i) : step s = exec i (s.present e later) := by
  simp [step, State.fetch, State.perform, hin, hreq, hroute]

/-- A store that is routed nowhere only leaves the queue (R47). -/
theorem step_of_store_none (hin : s.input = e :: later) (hreq : e.request = .store a b)
    (hroute : routeStore s.config a b = none) : step s = .next (s.present e later) := by
  simp [step, State.fetch, State.perform, hin, hreq, hroute]

/-- A load outside the windows only leaves the queue (log 11). -/
theorem step_of_load_outside (hin : s.input = e :: later) (hreq : e.request = .load a)
    (hout : inWindows s.config a = false) : step s = .next (s.present e later) := by
  simp [step, State.fetch, State.perform, hin, hreq, hout]

end Accesses

/-! ## A write after itself (R43) -/

/-- The later of two low bytes remains. -/
@[simp] theorem withPeriodLow_withPeriodLow (p : BitVec 11) (b b' : Byte) :
    withPeriodLow (withPeriodLow p b) b' = withPeriodLow p b' := by
  have hb := b.isLt
  apply BitVec.eq_of_toNat_eq
  simp only [withPeriodLow_toNat]
  omega

/-- The later of two `W2` remains (R84). -/
@[simp] theorem Instance.writePeriodLow_writePeriodLow (i : Instance) (b b' : Byte) :
    (i.writePeriodLow b).writePeriodLow b' = i.writePeriodLow b' := by
  simp [Instance.writePeriodLow]

/-- The later of two `W0` remains in the Channel State; the commands of both are sent (R81). -/
@[simp] theorem Instance.writeDuty_writeDuty_chan (cfg : Config) (i : Instance) (b b' : Byte) :
    ((i.writeDuty cfg b).writeDuty cfg b').chan = (i.writeDuty cfg b').chan := rfl

end Sys2Proof.Machine

/-! ## The statements -/

open Sys2Proof Sys2Proof.Machine

/-- Settles O18: the second write replaces the same instance by what the first one made of it, for `W0` up to the commands
sent. -/
theorem w2AndW0AreIdempotentOnTheChannel : Obligations.W2AndW0AreIdempotentOnTheChannel := by
  intro c b s t
  refine ⟨fun h => ?_, fun h => ?_⟩
  · rw [exec_w2] at h
    cases h
    rw [exec_w2, State.inst_setInst_self, State.setInst_setInst, Instance.writePeriodLow_writePeriodLow]
  · rw [exec_w0] at h
    cases h
    refine ⟨_, exec_w0 c b _, fun d => ?_⟩
    rw [State.setInst_setInst, State.inst_setInst_self, State.setInst_config, State.inst_setInst, State.inst_setInst]
    split
    · exact Instance.writeDuty_writeDuty_chan s.config (s.inst c) b b
    · rfl

/-- Settles O9: the address is that of R44 for either instance, and the step runs the event it is routed to. -/
theorem storeReachesOneInstance : Obligations.StoreReachesOneInstance := by
  intro s e later o b c hin ho hreq
  have hroute := routeStore_window s.config c b ho
  cases c with
  | first => exact step_of_store_some hin hreq hroute
  | second => exact step_of_store_some hin hreq hroute

/-- Settles O10: no access outside the windows is an event, and presenting its entry touches no channel and no trace. -/
theorem accessOutsideTheWindowsChangesNoChannel : Obligations.AccessOutsideTheWindowsChangesNoChannel := by
  intro s e later a hin hout hreq
  refine ⟨?_, fun c => ⟨State.present_chan .., State.present_samples .., State.present_commands ..,
    State.present_records ..⟩⟩
  rcases hreq with ⟨b, hstore⟩ | hload
  · exact step_of_store_none hin hstore (routeStore_eq_none b hout)
  · exact step_of_load_outside hin hload (inWindows_eq_false hout)

end

section
/-! SUPPORT. Proofs of the family `30_encoding.md`: the event word as its fields (R66), the words that spell no event (R68),
the rows of the opcode table (R72), the fields of a datum and the pseudo-operations that fill them (R61 to R65, R71). -/

namespace Sys2Proof.Machine

/-! ## The event word as its fields (R66) -/

section Append
variable {v w : Nat} {x x' : BitVec v} {y y' : BitVec w}

/-- Two concatenations at the same place are equal field by field. -/
theorem append_inj : x ++ y = x' ++ y' ↔ x = x' ∧ y = y' := by
  refine ⟨fun h => ⟨?_, ?_⟩, fun ⟨hx, hy⟩ => hx ▸ hy ▸ rfl⟩
  · simpa only [BitVec.extractLsb'_append_eq_left] using congrArg (BitVec.extractLsb' w v) h
  · simpa only [BitVec.extractLsb'_append_eq_right] using congrArg (BitVec.extractLsb' 0 w) h

theorem append_eq_zero : x ++ y = 0#(v + w) ↔ x = 0#v ∧ y = 0#w := by
  rw [← BitVec.zero_append_zero, append_inj]

end Append

/-- The word with the fields `k`, bit 11, `c`, `o` and `b` of R66. -/
def eventWord (k : BitVec 4) (r c : BitVec 1) (o : BitVec 2) (b : Byte) : EventWord := k ++ (r ++ (c ++ (o ++ b)))

/-- The fields tile the word. -/
theorem exists_eventWord (w : EventWord) : ∃ k r c o b, w = eventWord k r c o b := by
  have join {i m n : Nat} : w.extractLsb' (i + m) n ++ w.extractLsb' i m = w.extractLsb' i (n + m) :=
    BitVec.extractLsb'_append_extractLsb'_eq_extractLsb' rfl
  refine ⟨w.extractLsb' 12 4, w.extractLsb' 11 1, w.extractLsb' 10 1, w.extractLsb' 8 2, w.extractLsb' 0 8, ?_⟩
  rw [eventWord, join (i := 0) (m := 8), join (i := 0) (m := 10), join (i := 0) (m := 11), join (i := 0) (m := 12),
    BitVec.extractLsb'_eq_self]

/-- All four offsets are assigned (R60). -/
theorem offset_cases (o : BitVec 2) : o = 0#2 ∨ o = 1#2 ∨ o = 2#2 ∨ o = 3#2 := by revert o; decide

/-- The kinds of R66: the write, the three without an operand, the two with an instance, and the reserved ones. -/
theorem kind_cases (k : BitVec 4) :
    k = 0#4 ∨ (k = 1#4 ∨ k = 2#4 ∨ k = 3#4) ∨ (k = 4#4 ∨ k = 5#4) ∨ 6 ≤ k.toNat := by revert k; decide

/-- Either value of the bit `c` names an instance. -/
theorem exists_bitOfIdentity (x : BitVec 1) : ∃ c, x = bitOfIdentity c := by
  obtain rfl | rfl := BitVec.eq_zero_or_eq_one x
  · exact ⟨.first, rfl⟩
  · exact ⟨.second, rfl⟩

@[simp] theorem identityOfBit_bitOfIdentity (c : Identity) : identityOfBit ((bitOfIdentity c).getLsbD 0) = c := by
  cases c <;> rfl

section Fields
variable (k k' : BitVec 4) (r r' c c' : BitVec 1) (o o' : BitVec 2) (b b' : Byte)

theorem kind_eventWord : (eventWord k r c o b).extractLsb' 12 4 = k := BitVec.extractLsb'_append_eq_left

theorem offset_eventWord : (eventWord k r c o b).extractLsb' 8 2 = o := by
  rw [eventWord, BitVec.extractLsb'_append_eq_of_add_le (by decide), BitVec.extractLsb'_append_eq_of_add_le (by decide),
    BitVec.extractLsb'_append_eq_of_add_le (by decide), BitVec.extractLsb'_append_eq_left]

theorem datum_eventWord : (eventWord k r c o b).extractLsb' 0 8 = b := by
  rw [eventWord, BitVec.extractLsb'_append_eq_of_add_le (by decide), BitVec.extractLsb'_append_eq_of_add_le (by decide),
    BitVec.extractLsb'_append_eq_of_add_le (by decide), BitVec.extractLsb'_append_eq_right]

theorem bit11_eventWord : (eventWord k r c o b).getLsbD 11 = r.getLsbD 0 := by
  simp only [eventWord, BitVec.getLsbD_append]; rfl

theorem bit10_eventWord : (eventWord k r c o b).getLsbD 10 = c.getLsbD 0 := by
  simp only [eventWord, BitVec.getLsbD_append]; rfl

theorem low10_eventWord_eq_zero : (eventWord k r c o b).extractLsb' 0 10 = 0#10 ↔ o = 0#2 ∧ b = 0#8 := by
  rw [eventWord, BitVec.extractLsb'_append_eq_of_add_le (by decide), BitVec.extractLsb'_append_eq_of_add_le (by decide),
    BitVec.extractLsb'_append_eq_right]
  exact append_eq_zero

theorem low11_eventWord_eq_zero :
    (eventWord k r c o b).extractLsb' 0 11 = 0#11 ↔ c = 0#1 ∧ o = 0#2 ∧ b = 0#8 := by
  rw [eventWord, BitVec.extractLsb'_append_eq_of_add_le (by decide), BitVec.extractLsb'_append_eq_right]
  exact append_eq_zero.trans (and_congr_right' append_eq_zero)

theorem low12_eventWord_eq_zero :
    (eventWord k r c o b).extractLsb' 0 12 = 0#12 ↔ r = 0#1 ∧ c = 0#1 ∧ o = 0#2 ∧ b = 0#8 := by
  rw [eventWord, BitVec.extractLsb'_append_eq_right]
  exact append_eq_zero.trans (and_congr_right' (append_eq_zero.trans (and_congr_right' append_eq_zero)))

theorem eventWord_inj :
    eventWord k r c o b = eventWord k' r' c' o' b' ↔ k = k' ∧ r = r' ∧ c = c' ∧ o = o' ∧ b = b' := by
  rw [eventWord, eventWord, append_inj, append_inj, append_inj, append_inj]

theorem eventWord_and :
    eventWord k r c o b &&& eventWord k' r' c' o' b' =
      eventWord (k &&& k') (r &&& r') (c &&& c') (o &&& o') (b &&& b') := by
  simp only [eventWord, ← BitVec.and_append]

/-- The word of kind 0 with bit 11 clear, as the five leading zeros of R72's patterns have it. -/
theorem write_eq_eventWord : 0#5 ++ c ++ o ++ b = eventWord 0#4 0#1 c o b := by
  change 0#4 ++ 0#1 ++ c ++ o ++ b = _
  simp only [eventWord, BitVec.append_assoc, BitVec.cast_eq]

end Fields

/-! ## The word of each event -/

theorem encode_writeEvent (c : Identity) (o : BitVec 2) (b : Byte) :
    encode (writeEvent c o.toNat b) = eventWord 0#4 0#1 (bitOfIdentity c) o b := by
  rw [← write_eq_eventWord]
  obtain rfl | rfl | rfl | rfl := offset_cases o
  all_goals rfl

theorem encode_snap (c : Identity) : encode (.snap c) = eventWord 4#4 0#1 (bitOfIdentity c) 0#2 0#8 := by
  cases c <;> rfl

theorem encode_rest (c : Identity) : encode (.rest c) = eventWord 5#4 0#1 (bitOfIdentity c) 0#2 0#8 := by
  cases c <;> rfl

/-- A word of kind 0 with bit 11 clear is a write, whatever its other fields hold. -/
theorem decodeWord_write (c : Identity) (o : BitVec 2) (b : Byte) :
    decodeWord (eventWord 0#4 0#1 (bitOfIdentity c) o b) = .event (writeEvent c o.toNat b) := by
  simp only [decodeWord, kind_eventWord, bit11_eventWord, bit10_eventWord, offset_eventWord, datum_eventWord,
    identityOfBit_bitOfIdentity]
  obtain rfl | rfl | rfl | rfl := offset_cases o
  all_goals rfl

theorem decodeWord_encode_writeEvent (c : Identity) (o : BitVec 2) (b : Byte) :
    decodeWord (encode (writeEvent c o.toNat b)) = .event (writeEvent c o.toNat b) := by
  rw [encode_writeEvent, decodeWord_write]

/-- The decoder reads every event back from its word (R66, R72). -/
theorem decodeWord_encode (i : Instr) : decodeWord (encode i) = .event i := by
  cases i with
  | w0 c b => exact decodeWord_encode_writeEvent c 0#2 b
  | w1 c b => exact decodeWord_encode_writeEvent c 1#2 b
  | w2 c b => exact decodeWord_encode_writeEvent c 2#2 b
  | w3 c b => exact decodeWord_encode_writeEvent c 3#2 b
  | cyc | swp | rst => rfl
  | snap c | rest c => cases c <;> rfl

/-! ## The words that spell no event (R68) -/

/-- The reserved words of R68. -/
def ReservedWord (w : EventWord) : Prop :=
  6 ≤ (w.extractLsb' 12 4).toNat ∨
  w.getLsbD 11 = true ∨
  ((1 ≤ (w.extractLsb' 12 4).toNat ∧ (w.extractLsb' 12 4).toNat ≤ 3) ∧ w.extractLsb' 0 12 ≠ 0#12) ∨
  (((w.extractLsb' 12 4).toNat = 4 ∨ (w.extractLsb' 12 4).toNat = 5) ∧
    (w.getLsbD 11 = true ∨ w.extractLsb' 0 10 ≠ 0#10))

/-- The two clauses of `ReservedWord` on bit 11 are one: it is reserved in every kind. -/
theorem reservedWord_bit11 (k : BitVec 4) (c : BitVec 1) (o : BitVec 2) (b : Byte) :
    ReservedWord (eventWord k 1#1 c o b) := .inr (.inl (by rw [bit11_eventWord]; rfl))

/-- With bit 11 clear, a word is reserved for its kind or for an operand bit that its kind has no use for. -/
theorem reservedWord_iff (k : BitVec 4) (c : BitVec 1) (o : BitVec 2) (b : Byte) :
    ReservedWord (eventWord k 0#1 c o b) ↔
      6 ≤ k.toNat ∨
      ((1 ≤ k.toNat ∧ k.toNat ≤ 3) ∧ ¬ (c = 0#1 ∧ o = 0#2 ∧ b = 0#8)) ∨
      ((k.toNat = 4 ∨ k.toNat = 5) ∧ ¬ (o = 0#2 ∧ b = 0#8)) := by
  simp [ReservedWord, kind_eventWord, bit11_eventWord, low12_eventWord_eq_zero, low10_eventWord_eq_zero,
    -BitVec.getLsbD_eq_getElem]

/-- The decoder refuses the reserved words. -/
theorem decodeWord_of_reserved {w : EventWord} (h : ReservedWord w) : ∃ e, decodeWord w = .noEvent e := by
  obtain ⟨k, r, c, o, b, rfl⟩ := exists_eventWord w
  simp only [decodeWord, kind_eventWord, bit11_eventWord, low10_eventWord_eq_zero, low11_eventWord_eq_zero]
  obtain rfl | rfl := BitVec.eq_zero_or_eq_one r
  · rw [reservedWord_iff] at h
    generalize k.toNat = n at h ⊢
    rcases h with hk | ⟨hk, hset⟩ | ⟨hk, hset⟩
    · match n, hk with
      | n + 6, _ => exact ⟨.reservedKind, rfl⟩
    · obtain rfl | rfl | rfl : n = 1 ∨ n = 2 ∨ n = 3 := by omega
      all_goals exact ⟨.operandBitsSet, if_neg hset⟩
    · obtain rfl | rfl := hk
      all_goals exact ⟨.operandBitsSet, if_neg hset⟩
  · exact ⟨.bit11Set, rfl⟩

/-- Every other word is the word of an event: the kinds 0 to 5 leave no gap. -/
theorem exists_encode_of_not_reserved {w : EventWord} (h : ¬ ReservedWord w) : ∃ i, encode i = w := by
  obtain ⟨k, r, c, o, b, rfl⟩ := exists_eventWord w
  obtain rfl | rfl := BitVec.eq_zero_or_eq_one r
  · rw [reservedWord_iff] at h
    obtain ⟨d, rfl⟩ := exists_bitOfIdentity c
    obtain rfl | hk | hk | hk := kind_cases k
    · exact ⟨writeEvent d o.toNat b, encode_writeEvent d o b⟩
    · obtain ⟨hc, rfl, rfl⟩ : bitOfIdentity d = 0#1 ∧ o = 0#2 ∧ b = 0#8 := by
        by_contra hset
        exact h (.inr (.inl ⟨by rcases hk with rfl | rfl | rfl <;> decide, hset⟩))
      rw [hc]
      obtain rfl | rfl | rfl := hk
      · exact ⟨.cyc, rfl⟩
      · exact ⟨.swp, rfl⟩
      · exact ⟨.rst, rfl⟩
    · obtain ⟨rfl, rfl⟩ : o = 0#2 ∧ b = 0#8 := by
        by_contra hset
        exact h (.inr (.inr ⟨by rcases hk with rfl | rfl <;> decide, hset⟩))
      obtain rfl | rfl := hk
      · exact ⟨.snap d, encode_snap d⟩
      · exact ⟨.rest d, encode_rest d⟩
    · exact absurd (.inl hk) h
  · exact absurd (reservedWord_bit11 k c o b) h

/-- The decoder is the inverse of the encoder. -/
theorem decodeWord_eq_event_iff {w : EventWord} {i : Instr} : decodeWord w = .event i ↔ encode i = w := by
  refine ⟨fun h => ?_, fun h => h ▸ decodeWord_encode i⟩
  have hw : ¬ ReservedWord w := fun hr => by
    obtain ⟨e, he⟩ := decodeWord_of_reserved hr
    rw [he] at h
    cases h
  obtain ⟨j, rfl⟩ := exists_encode_of_not_reserved hw
  rw [decodeWord_encode] at h
  cases h
  rfl

/-- The decoder refuses the reserved words and no other. -/
theorem exists_decodeWord_noEvent_iff {w : EventWord} : (∃ e, decodeWord w = .noEvent e) ↔ ReservedWord w := by
  refine ⟨fun ⟨e, he⟩ => ?_, decodeWord_of_reserved⟩
  by_contra hw
  obtain ⟨i, rfl⟩ := exists_encode_of_not_reserved hw
  rw [decodeWord_encode] at he
  cases he

/-! ## The opcode table (R72) -/

/-- The family `RowMatch` over all events. -/
theorem rowMatch (i : Instr) : encode i &&& (opcodeRow i).mask = (opcodeRow i).value := by
  cases i with
  | w0 c b => exact Laws.RowMatch.w0 c b
  | w1 c b => exact Laws.RowMatch.w1 c b
  | w2 c b => exact Laws.RowMatch.w2 c b
  | w3 c b => exact Laws.RowMatch.w3 c b
  | cyc => exact Laws.RowMatch.cyc
  | swp => exact Laws.RowMatch.swp
  | rst => exact Laws.RowMatch.rst
  | snap c => exact Laws.RowMatch.snap c
  | rest c => exact Laws.RowMatch.rest c

/-- The mask of the write rows hides the instance bit and the datum. -/
theorem eventWord_and_writeMask (k : BitVec 4) (r c : BitVec 1) (o : BitVec 2) (b : Byte) :
    eventWord k r c o b &&& 0xFB00#16 = eventWord k r 0#1 o 0#8 := by
  have hmask : 0xFB00#16 = eventWord (.allOnes 4) (.allOnes 1) 0#1 (.allOnes 2) 0#8 := rfl
  simp only [hmask, eventWord_and, BitVec.and_allOnes, BitVec.and_zero]

/-- The mask of the snapshot rows hides the instance bit. -/
theorem eventWord_and_snapshotMask (k : BitVec 4) (r c : BitVec 1) (o : BitVec 2) (b : Byte) :
    eventWord k r c o b &&& 0xFBFF#16 = eventWord k r 0#1 o b := by
  have hmask : 0xFBFF#16 = eventWord (.allOnes 4) (.allOnes 1) 0#1 (.allOnes 2) (.allOnes 8) := rfl
  simp only [hmask, eventWord_and, BitVec.and_allOnes, BitVec.and_zero]

/-- What matches the write row of the offset `o` is the word of a write to it. -/
theorem exists_write_of_match {w : EventWord} {o : BitVec 2} (h : w &&& 0xFB00#16 = eventWord 0#4 0#1 0#1 o 0#8) :
    ∃ c b, encode (writeEvent c o.toNat b) = w := by
  obtain ⟨k, r, x, o', b, rfl⟩ := exists_eventWord w
  rw [eventWord_and_writeMask, eventWord_inj] at h
  obtain ⟨rfl, rfl, -, rfl, -⟩ := h
  obtain ⟨c, rfl⟩ := exists_bitOfIdentity x
  exact ⟨c, b, encode_writeEvent c o' b⟩

/-- What matches the snapshot row of the kind `k` is the word of that kind at one of the two instances. -/
theorem exists_snapshot_of_match {w : EventWord} {k : BitVec 4} (h : w &&& 0xFBFF#16 = eventWord k 0#1 0#1 0#2 0#8) :
    ∃ c, eventWord k 0#1 (bitOfIdentity c) 0#2 0#8 = w := by
  obtain ⟨k', r, x, o, b, rfl⟩ := exists_eventWord w
  rw [eventWord_and_snapshotMask, eventWord_inj] at h
  obtain ⟨rfl, rfl, -, rfl, rfl⟩ := h
  obtain ⟨c, rfl⟩ := exists_bitOfIdentity x
  exact ⟨c, rfl⟩

/-- What matches a row is the word of an event of that row. -/
theorem exists_encode_of_match {w : EventWord} {j : Instr} (h : w &&& (opcodeRow j).mask = (opcodeRow j).value) :
    ∃ i, encode i = w ∧ opcodeRow i = opcodeRow j := by
  cases j with
  | w0 _ _ =>
    obtain ⟨c, b, hw⟩ := exists_write_of_match (o := 0#2) h
    exact ⟨.w0 c b, hw, rfl⟩
  | w1 _ _ =>
    obtain ⟨c, b, hw⟩ := exists_write_of_match (o := 1#2) h
    exact ⟨.w1 c b, hw, rfl⟩
  | w2 _ _ =>
    obtain ⟨c, b, hw⟩ := exists_write_of_match (o := 2#2) h
    exact ⟨.w2 c b, hw, rfl⟩
  | w3 _ _ =>
    obtain ⟨c, b, hw⟩ := exists_write_of_match (o := 3#2) h
    exact ⟨.w3 c b, hw, rfl⟩
  | cyc => exact ⟨.cyc, h.symm.trans BitVec.and_allOnes, rfl⟩
  | swp => exact ⟨.swp, h.symm.trans BitVec.and_allOnes, rfl⟩
  | rst => exact ⟨.rst, h.symm.trans BitVec.and_allOnes, rfl⟩
  | snap _ =>
    obtain ⟨c, hw⟩ := exists_snapshot_of_match (k := 4#4) h
    exact ⟨.snap c, (encode_snap c).trans hw, rfl⟩
  | rest _ =>
    obtain ⟨c, hw⟩ := exists_snapshot_of_match (k := 5#4) h
    exact ⟨.rest c, (encode_rest c).trans hw, rfl⟩

/-- A word matches a row exactly when it decodes to an event of that row (R72). -/
theorem matchesRow_iff {w : EventWord} {j : Instr} :
    w &&& (opcodeRow j).mask = (opcodeRow j).value ↔ ∃ i, decodeWord w = .event i ∧ opcodeRow i = opcodeRow j := by
  simp only [decodeWord_eq_event_iff]
  refine ⟨exists_encode_of_match, fun ⟨i, hw, hrow⟩ => ?_⟩
  rw [← hw, ← hrow, rowMatch]

/-! ## What the step refuses at its boundary (R68, R46) -/

section Refusals
variable {s : State} {e : Input} {later : List Input}

/-- A word that spells no event is refused with the decoder's reason (R68). -/
theorem step_of_noEvent {w : EventWord} {x : DecodeError} (hin : s.input = e :: later) (hreq : e.request = .word w)
    (hdec : decodeWord w = .noEvent x) : step s = .refused (.notAnEvent x) := by
  simp [step, State.fetch, State.perform, hin, hreq, hdec]

/-- A load from a window is refused (R46, D8). -/
theorem step_of_load_window {a : Nat} (hin : s.input = e :: later) (hreq : e.request = .load a)
    (hwin : inWindows s.config a = true) : step s = .refused (.windowRead a) := by
  simp [step, State.fetch, State.perform, hin, hreq, hwin]

end Refusals

/-! ## The fields of a datum as numbers (R61, R62, R64) -/

section Data
variable (b : Byte)

theorem dutyField_toNat : (dutyField b).toNat = b.toNat / 64 := by
  have hb := b.isLt
  simp only [dutyField, BitVec.extractLsb'_toNat, Nat.shiftRight_eq_div_pow]
  omega

theorem enableField_eq : enableField b = decide (b.toNat / 128 % 2 = 1) := Nat.testBit_eq_decide_div_mod_eq

theorem negateField_eq : negateField b = decide (b.toNat / 8 % 2 = 1) := Nat.testBit_eq_decide_div_mod_eq

theorem dividerPeriodOf_eq : dividerPeriodOf b = b.toNat / 16 % 8 + 1 := by
  simp only [dividerPeriodOf, dividerField, BitVec.extractLsb'_toNat, Nat.shiftRight_eq_div_pow]

theorem shiftField_toNat : (shiftField b).toNat = b.toNat % 8 := by
  simp [shiftField]

theorem lengthField_toNat : (lengthField b).toNat = b.toNat / 8 := by
  have hb := b.isLt
  simp only [lengthField, BitVec.extractLsb'_toNat, Nat.shiftRight_eq_div_pow]
  omega

end Data

/-! ## The pseudo-operations (R71) -/

/-- A field of `n` bits above a datum that fits below it. -/
theorem or_eq_add {n x y : Nat} (hy : y < 2 ^ n) : x <<< n ||| y = x * 2 ^ n + y := by
  rw [← Nat.shiftLeft_add_eq_or_of_lt hy, Nat.shiftLeft_eq]

theorem execAll_cons {i : Instr} {later : List Instr} {s t : State} (h : exec i s = .next t) :
    execAll (i :: later) s = execAll later t := by
  simp [execAll, h]

section Pseudo
variable (c : Identity) (s : State)

/-- `DUTY` sets the duty index. -/
theorem exists_execAll_duty {d e : Nat} (h : (Pseudo.duty c d e).wf = true) :
    ∃ t, execAll (Pseudo.duty c d e).expand s = .next t ∧ (t.inst c).chan.dutyIndex.toNat = d := by
  simp only [Pseudo.wf, Bool.and_eq_true, decide_eq_true_eq] at h
  obtain ⟨hd, he⟩ := h
  refine ⟨_, execAll_cons (exec_w0 ..), ?_⟩
  have hb : (BitVec.ofNat 8 (d <<< 6 ||| e)).toNat = d * 64 + e := by
    rw [or_eq_add (by omega), BitVec.toNat_ofNat]
    omega
  simp only [State.inst_setInst_self, Instance.writeDuty_chan, dutyField_toNat, hb]
  omega

/-- `SWEEP` sets the four sweep fields. -/
theorem exists_execAll_sweep {en p n k : Nat} (h : (Pseudo.sweep c en p n k).wf = true) :
    ∃ t, execAll (Pseudo.sweep c en p n k).expand s = .next t ∧
      (t.inst c).chan.sweepEnabled = decide (en = 1) ∧ (t.inst c).chan.sweepDividerPeriod = p + 1 ∧
      (t.inst c).chan.sweepNegate = decide (n = 1) ∧ (t.inst c).chan.sweepShift.toNat = k := by
  simp only [Pseudo.wf, Bool.and_eq_true, decide_eq_true_eq] at h
  obtain ⟨⟨⟨hen, hp⟩, hn⟩, hk⟩ := h
  refine ⟨_, execAll_cons (exec_w1 ..), ?_⟩
  have hb : (BitVec.ofNat 8 (en <<< 7 ||| p <<< 4 ||| n <<< 3 ||| k)).toNat = en * 128 + p * 16 + n * 8 + k := by
    rw [Nat.or_assoc, Nat.or_assoc, or_eq_add (n := 3) (by omega), or_eq_add (n := 4) (by omega),
      or_eq_add (n := 7) (by omega), BitVec.toNat_ofNat]
    omega
  simp only [State.inst_setInst_self, Instance.writeSweep_chan, Channel.initializeSweep, enableField_eq, negateField_eq,
    dividerPeriodOf_eq, shiftField_toNat, hb, decide_eq_decide]
  omega

/-- `SETP` sets the period and the timer and sends two commands: `W3` completes the period whose low byte `W2` wrote. -/
theorem exists_execAll_setPeriod {p n : Nat} (h : (Pseudo.setPeriod c p n).wf = true) :
    ∃ t, execAll (Pseudo.setPeriod c p n).expand s = .next t ∧
      (t.inst c).chan.period.toNat = p ∧ (t.inst c).chan.timer = p + 1 ∧
      (t.inst c).commands = (s.inst c).commands ++ [.lenLoad (BitVec.ofNat 5 n), .envReset] := by
  simp only [Pseudo.wf, Bool.and_eq_true, decide_eq_true_eq] at h
  obtain ⟨hp, hn⟩ := h
  refine ⟨_, (execAll_cons (exec_w2 ..)).trans (execAll_cons (exec_w3 ..)), ?_⟩
  have hlo : (BitVec.ofNat 8 (p % 256)).toNat = p % 256 := by
    rw [BitVec.toNat_ofNat]
    omega
  have hhi : (BitVec.ofNat 8 (n <<< 3 ||| p / 256)).toNat = n * 8 + p / 256 := by
    rw [or_eq_add (by omega), BitVec.toNat_ofNat]
    omega
  generalize BitVec.ofNat 8 (p % 256) = lo at hlo ⊢
  generalize BitVec.ofNat 8 (n <<< 3 ||| p / 256) = hi at hhi ⊢
  have hperiod (q : BitVec 11) : (withPeriodHigh (withPeriodLow q lo) hi).toNat = p := by
    rw [withPeriodHigh_toNat, withPeriodLow_toNat, hlo, hhi]
    omega
  have hlength : lengthField hi = BitVec.ofNat 5 n := by
    apply BitVec.eq_of_toNat_eq
    rw [lengthField_toNat, hhi, BitVec.toNat_ofNat]
    omega
  refine ⟨?_, ?_, ?_⟩
  · simp [hperiod]
  · simp [hperiod]
  · simpa [lengthField] using hlength

end Pseudo

end Sys2Proof.Machine

/-! ## The statements -/

open Sys2Proof Sys2Proof.Machine

/-- Settles O1, from the equation of the decoder at the word of each event. -/
theorem decodeOfEncode : Obligations.DecodeOfEncode := decodeWord_encode

/-- Settles O2: a word is reserved or the word of an event, and the decoder reads that event from it. -/
theorem encodeOfDecode : Obligations.EncodeOfDecode := fun _ _ => decodeWord_eq_event_iff.mp

/-- Settles O3: the decoder refuses the reserved words and no other, and a write transaction is the word of a write. -/
theorem reservedWordsAreRefused : Obligations.ReservedWordsAreRefused := by
  refine ⟨fun w => exists_decodeWord_noEvent_iff, fun x o b => ?_⟩
  obtain ⟨c, rfl⟩ := exists_bitOfIdentity x
  exact ⟨_, write_eq_eventWord (bitOfIdentity c) o b ▸ decodeWord_write c o b⟩

/-- Settles O4: a word that matches a row is the word of an event of that row, and it is the word of one event only. -/
theorem opcodeTableIsTheDecoder : Obligations.OpcodeTableIsTheDecoder := by
  refine ⟨fun w j => matchesRow_iff, fun w j k hj hk => ?_⟩
  obtain ⟨i, hi, hij⟩ := matchesRow_iff.mp hj
  obtain ⟨i', hi', hik⟩ := matchesRow_iff.mp hk
  obtain rfl : i = i' := by simpa [hi] using hi'
  exact hij.symm.trans hik

/-- Settles O7, from the equations of `step` at the two requests it refuses. -/
theorem stepRefusesAtItsBoundary : Obligations.StepRefusesAtItsBoundary := by
  intro s e later hin
  exact ⟨fun w x hreq hdec => step_of_noEvent hin hreq hdec,
    fun a hreq hlo hhi => step_of_load_window hin hreq (inWindows_iff.mpr ⟨hlo, hhi⟩)⟩

/-- Settles O55, one lemma per pseudo-operation. -/
theorem pseudoOperationsSetTheirFields : Obligations.PseudoOperationsSetTheirFields := by
  intro c s
  exact ⟨fun d e => exists_execAll_duty c s, fun en p n k => exists_execAll_sweep c s,
    fun p n => exists_execAll_setPeriod c s⟩

end

section
/-! SUPPORT. Proofs of the family `40_register_writes.md`: each write as one record update of the addressed instance
(R81 to R85), and what the four of them leave unchanged (R86). -/

namespace Sys2Proof.Machine

/-! ## The halves of the period that a write keeps (R84, R85) -/

/-- `W2` keeps the high three bits. -/
@[simp] theorem withPeriodLow_toNat_div (p : BitVec 11) (b : Byte) :
    (withPeriodLow p b).toNat / 256 = p.toNat / 256 := by
  have hb := b.isLt
  rw [withPeriodLow_toNat]
  omega

/-- `W3` keeps the low byte. -/
@[simp] theorem withPeriodHigh_toNat_mod (p : BitVec 11) (b : Byte) :
    (withPeriodHigh p b).toNat % 256 = p.toNat % 256 := by
  rw [withPeriodHigh_toNat]
  omega

/-! ## The addressed instance after a write, as one record update -/

section Instances
variable (cfg : Config) (b : Byte) (i : Instance)

/-- `W0` sets the duty index and sends two commands (R81). -/
theorem Instance.writeDuty_eq :
    i.writeDuty cfg b =
      { i with
        chan := { i.chan with dutyIndex := b.extractLsb' 6 2 }
        commands := i.commands ++ [.lenInit (b.getLsbD cfg.haltBit), .envInit b] } := by
  rw [← Instance.writeDuty_commands]
  rfl

/-- `W3` replaces the high bits of the period, restarts timer and duty position, and sends two commands (R85). -/
theorem Instance.writePeriodHigh_eq :
    i.writePeriodHigh b =
      { i with
        chan := { i.chan with
          period := withPeriodHigh i.chan.period b
          timer := (withPeriodHigh i.chan.period b).toNat + 1
          dutyPos := 0#3 }
        commands := i.commands ++ [.lenLoad (b.extractLsb' 3 5), .envReset] } := by
  rw [← Instance.writePeriodHigh_commands]
  rfl

/-! A write leaves the volume, which is an input (R34). -/

@[simp] theorem Instance.writeDuty_vol : (i.writeDuty cfg b).vol = i.vol := rfl
@[simp] theorem Instance.writeSweep_vol : (i.writeSweep b).vol = i.vol := rfl
@[simp] theorem Instance.writePeriodLow_vol : (i.writePeriodLow b).vol = i.vol := rfl
@[simp] theorem Instance.writePeriodHigh_vol : (i.writePeriodHigh b).vol = i.vol := rfl

end Instances

/-! ## The other instance -/

/-- A write reaches no instance but the addressed one (R12). -/
theorem State.instAfter_write_of_ne {c d : Identity} {b : Byte} {i : Instr} (s : State)
    (hw : i = .w0 c b ∨ i = .w1 c b ∨ i = .w2 c b ∨ i = .w3 c b) (hd : d ≠ c) : s.instAfter d i = s.inst d := by
  obtain rfl | rfl | rfl | rfl := hw <;> exact if_neg hd

end Sys2Proof.Machine

/-! ## The statements -/

open Sys2Proof Sys2Proof.Machine

/-- Settles O14, from `{period[10:8], b}` as a number. -/
theorem w2ReplacesThePeriodLowByte : Obligations.W2ReplacesThePeriodLowByte := by
  intro c b s
  exact ⟨decodeWord_encode (.w2 c b), withPeriodLow (s.inst c).chan.period b, withPeriodLow_toNat .., exec_w2 c b s⟩

/-- Settles O15, from `{H, period[7:0]}` as a number and the record update that `W3` is. -/
theorem w3RestartsTheChannel : Obligations.W3RestartsTheChannel := by
  intro c b s
  refine ⟨decodeWord_encode (.w3 c b), withPeriodHigh (s.inst c).chan.period b, withPeriodHigh_toNat .., ?_⟩
  rw [exec_w3, Instance.writePeriodHigh_eq]

/-- Settles O16, write by write: in the addressed instance each is its own operation, and the clauses are read off the
lemmas about that. -/
theorem registerWritesFrame : Obligations.RegisterWritesFrame := by
  intro c b i s t hw hexec
  obtain ⟨hcfg, hin, hrec, hnow, hinst⟩ := exec_next hexec
  have hother (d : Identity) (hd : d ≠ c) : t.inst d = s.inst d :=
    (hinst d).trans (State.instAfter_write_of_ne s hw hd)
  obtain rfl | rfl | rfl | rfl := hw
  · have hself : t.inst c = (s.inst c).writeDuty s.config b := (hinst c).trans (if_pos rfl)
    simpa [hself, hcfg, hin, hrec, hnow] using hother
  · have hself : t.inst c = (s.inst c).writeSweep b := (hinst c).trans (if_pos rfl)
    simpa [hself, hcfg, hin, hrec, hnow, Channel.initializeSweep] using hother
  · have hself : t.inst c = (s.inst c).writePeriodLow b := (hinst c).trans (if_pos rfl)
    simpa [hself, hcfg, hin, hrec, hnow] using hother
  · have hself : t.inst c = (s.inst c).writePeriodHigh b := (hinst c).trans (if_pos rfl)
    simpa [hself, hcfg, hin, hrec, hnow] using hother

/-- Settles O12, from the record update that `W0` is. -/
theorem w0SetsDutyAndForwardsTheByte : Obligations.W0SetsDutyAndForwardsTheByte := by
  intro c b s
  refine ⟨decodeWord_encode (.w0 c b), ?_⟩
  rw [exec_w0, Instance.writeDuty_eq]

/-- Settles O13: `InitializeSweep` assigns the fields of the byte, and the pending flag whatever the byte. -/
theorem w1SetsUpTheSweep : Obligations.W1SetsUpTheSweep := by
  intro c b s
  exact ⟨decodeWord_encode (.w1 c b), exec_w1 c b s⟩

end

section
/-! SUPPORT. Proofs of the family `41_sequencer.md`: `Clock` (R103), one chip cycle at one instance (R100, R101, R105), and
the pace and the order of the samples from a reload on (R106, R107). -/

namespace Sys2Proof.Machine

/-! ## The duty position, counted down modulo 8 (R103) -/

/-- `n` decrements modulo 8, as a number: each is `+ 7`. -/
theorem dutyPos_sub_toNat (q : BitVec 3) (n : Nat) : (q - BitVec.ofNat 3 n).toNat = (q.toNat + 7 * n) % 8 := by
  rw [BitVec.toNat_sub, BitVec.toNat_ofNat]
  omega

/-- Eight decrements from 0 on run through the positions 7 to 0 (R107). -/
theorem range_map_dutyPos_downwards :
    (List.range 8).map (fun k => 0#3 - BitVec.ofNat 3 k - 1#3) = [7#3, 6#3, 5#3, 4#3, 3#3, 2#3, 1#3, 0#3] := by
  decide

/-! ## The amplitude (R102, R103, R105) -/

theorem Instance.amplitude_eq (cfg : Config) (i : Instance) :
    i.amplitude cfg =
      if i.chan.period.toNat < 8 ∨ 2047 < i.chan.sweepTargetPeriod then 0
      else (dutyBit cfg i.chan.dutyIndex i.chan.dutyPos).toNat * (i.vol % 2 ^ cfg.vw) := by
  simp [Instance.amplitude, Channel.muted_iff, Instance.readVol]

/-- `Clock` moves the duty position and appends the amplitude there (R103). -/
theorem Instance.clock_eq (cfg : Config) (stamp : Nat) (i : Instance) :
    i.clock cfg stamp =
      { i with
        chan := { i.chan with dutyPos := i.chan.dutyPos - 1#3 }
        samples := i.samples ++
          [⟨Instance.amplitude cfg { i with chan := { i.chan with dutyPos := i.chan.dutyPos - 1#3 } }, stamp⟩] } := rfl

/-- The level is 0 or the volume (R105). -/
theorem Channel.levelAt_eq_zero_or (cfg : Config) (vol : Nat) (ch : Channel) (q : BitVec 3) :
    ch.levelAt cfg vol q = 0 ∨ ch.levelAt cfg vol q = vol % 2 ^ cfg.vw := by
  by_cases h : ch.SilentNow cfg
  · exact .inl (if_pos h)
  · rw [Channel.levelAt_of_not_silentNow h]
    cases dutyBit cfg ch.dutyIndex q <;> simp

/-- The level fits `VW` bits (R35). -/
theorem Channel.levelAt_lt (cfg : Config) (vol : Nat) (ch : Channel) (q : BitVec 3) :
    ch.levelAt cfg vol q < 2 ^ cfg.vw := by
  rcases ch.levelAt_eq_zero_or cfg vol q with h | h
  · rw [h]; exact Nat.two_pow_pos _
  · rw [h]; exact Nat.mod_lt _ (Nat.two_pow_pos _)

/-! ## One chip cycle (R100, R101) -/

section Cycle
variable (cfg : Config) (stamp : Nat) (i : Instance)

@[simp] theorem Instance.cycle_vol : (i.cycle cfg stamp).vol = i.vol := by
  rcases Nat.lt_or_ge 1 i.chan.timer with h | h
  · rw [Instance.cycle_of_lt cfg stamp i h]
  · rw [Instance.cycle_of_le cfg stamp i h]

/-- A cycle refreshes the target first, so it leaves a channel muted exactly when the fields it found are silent (R108). -/
theorem Instance.cycle_muted_iff : (i.cycle cfg stamp).chan.muted = true ↔ i.chan.SilentNow cfg := by
  rw [Channel.muted_iff, Instance.cycle_chan]
  rfl

/-- A cycle at expiry appends the level at the duty position it leaves (R103). -/
theorem Instance.cycle_samples_eq_levelAt (h : i.chan.timer ≤ 1) :
    (i.cycle cfg stamp).samples =
      i.samples ++ [⟨i.chan.levelAt cfg i.vol (i.cycle cfg stamp).chan.dutyPos, stamp⟩] := by
  rw [Instance.cycle_of_le cfg stamp i h]
  rfl

end Cycle

/-- `CYC` completes and runs one chip cycle at each instance (R56, R100). -/
theorem exists_exec_cyc (s : State) :
    ∃ t, exec .cyc s = .next t ∧ ∀ c, t.inst c = (s.inst c).cycle s.config (s.cycleIndex + 1) := by
  obtain ⟨-, -, -, -, hinst⟩ := exec_next (exec_cyc s)
  exact ⟨_, exec_cyc s, hinst⟩

/-! ## Any number of chip cycles from a reload on (R106) -/

/-- Whatever the volumes, the cycles run `Clock` once a round, and the timer counts down within the round. -/
theorem State.exists_played_cycledAll {s : State} {c : Identity} (vs : List (Nat × Nat)) {p : Nat}
    (hp : (s.inst c).chan.period.toNat = p) (h : (s.inst c).chan.timer = p + 1) :
    ∃ heard, State.Played c s (s.cycledAll vs) heard ∧ heard.length = vs.length / (p + 1) ∧
      ((s.cycledAll vs).inst c).chan.timer = p + 1 - vs.length % (p + 1) := by
  induction vs using List.reverseRecOn with
  | nil => exact ⟨[], .refl, by simp, h⟩
  | append_singleton vs v ih =>
    obtain ⟨heard, hplayed, hlen, htimer⟩ := ih
    rw [State.cycledAll_append, List.length_append, List.length_singleton]
    have hround := Nat.mod_add_div vs.length (p + 1)
    have hmod := Nat.mod_lt vs.length (Nat.add_one_pos p)
    generalize vs.length % (p + 1) = r, vs.length / (p + 1) = n at *
    rcases Nat.lt_or_ge r p with hr | hr
    · obtain ⟨hdiv, hmod'⟩ : (vs.length + 1) / (p + 1) = n ∧ (vs.length + 1) % (p + 1) = r + 1 :=
        (Nat.div_mod_unique (Nat.add_one_pos p)).mpr ⟨by omega, by omega⟩
      obtain ⟨hwait, hcount⟩ := State.played_cycled_of_lt v (by omega : 1 < ((s.cycledAll vs).inst c).chan.timer)
      rw [hdiv, hmod']
      exact ⟨_, hplayed.trans hwait, by simpa using hlen, hcount.trans (by omega)⟩
    · obtain ⟨hdiv, hmod'⟩ : (vs.length + 1) / (p + 1) = n + 1 ∧ (vs.length + 1) % (p + 1) = 0 :=
        (Nat.div_mod_unique (Nat.add_one_pos p)).mpr ⟨by rw [Nat.mul_add_one]; omega, by omega⟩
      obtain ⟨hclock, hreload⟩ := State.played_cycled_of_le v (by omega : ((s.cycledAll vs).inst c).chan.timer ≤ 1)
      rw [hdiv, hmod']
      exact ⟨_, hplayed.trans hclock, by simpa using hlen, hreload.trans (by rw [hplayed.period, hp]; rfl)⟩

end Sys2Proof.Machine

/-! ## The statements -/

open Sys2Proof Sys2Proof.Machine

/-- Settles O20, from the equation of a chip cycle before expiry. -/
theorem cycleBeforeExpiryCountsDown : Obligations.CycleBeforeExpiryCountsDown := by
  intro s c htimer
  obtain ⟨t, hexec, hinst⟩ := exists_exec_cyc s
  exact ⟨t, hexec, (hinst c).trans (Instance.cycle_of_lt _ _ _ htimer)⟩

/-- Settles O21, from the equation of a chip cycle at expiry, the decrement of the duty position read as a number. -/
theorem cycleAtExpiryClocks : Obligations.CycleAtExpiryClocks := by
  intro s c htimer
  obtain ⟨t, hexec, hinst⟩ := exists_exec_cyc s
  exact ⟨t, hexec, (s.inst c).chan.dutyPos - 1#3, dutyPos_sub_toNat _ 1,
    (hinst c).trans (Instance.cycle_of_le _ _ _ htimer)⟩

/-- Settles O22: a chip cycle writes three fields of each Channel State, and of the traces the samples only. -/
theorem cycleFrame : Obligations.CycleFrame := by
  intro s
  obtain ⟨t, hexec, hinst⟩ := exists_exec_cyc s
  obtain ⟨hcfg, hin, hrec, hnow, -⟩ := exec_next hexec
  refine ⟨t, hexec, hcfg, hin, hrec, hnow, fun c => ?_⟩
  rw [hinst, Instance.cycle_chan]
  exact ⟨rfl, Instance.cycle_vol .., Instance.cycle_commands .., Instance.cycle_records ..⟩

/-- Settles O24: the sample is the level at the new position, and an unmuted channel is one that is not silent. -/
theorem sampleIsZeroOrTheVolume : Obligations.SampleIsZeroOrTheVolume := by
  intro s c htimer
  obtain ⟨t, hexec, hinst⟩ := exists_exec_cyc s
  refine ⟨t, (s.inst c).chan.levelAt s.config (s.inst c).vol (t.inst c).chan.dutyPos, hexec, ?_,
    Channel.levelAt_eq_zero_or .., Channel.levelAt_lt .., fun hunmuted => ?_⟩
  · rw [hinst]
    exact Instance.cycle_samples_eq_levelAt _ _ _ htimer
  · have hsounds : ¬ (s.inst c).chan.SilentNow s.config := by
      rwa [← Bool.not_eq_true, hinst, Instance.cycle_muted_iff] at hunmuted
    have hindex : (t.inst c).chan.dutyIndex = (s.inst c).chan.dutyIndex := by rw [hinst, Instance.cycle_chan]
    rw [Channel.levelAt_of_not_silentNow hsounds, hindex, Bool.toNat, Bool.cond_eq_ite]

/-- Settles O25: from a reload on, each full round of the timer has one `Clock`, and each `Clock` one decrement. -/
theorem clockRunsEveryPeriodPlusOneCycles : Obligations.ClockRunsEveryPeriodPlusOneCycles := by
  intro s c vs hreload
  obtain ⟨heard, hplayed, hlen, htimer⟩ := State.exists_played_cycledAll vs rfl hreload
  refine ⟨_, cyclesWith_eq vs s, hplayed.period, htimer, ?_, ?_⟩
  · rw [hplayed.dutyPos, dutyPos_sub_toNat, hlen]
  · simpa [amplitudes, hlen] using congrArg List.length hplayed.samples

/-- Settles O26: the eight rounds after the restart sound the eight positions below 0, downwards. -/
theorem waveformAfterRestart : Obligations.WaveformAfterRestart := by
  intro s u c b v hexec hsounds
  obtain ⟨hcfg, -, -, -, hinst⟩ := exec_next hexec
  have hu : u.inst c = (s.inst c).writePeriodHigh b := (hinst c).trans (if_pos rfl)
  obtain ⟨hplayed, -⟩ := State.played_rounds (s := u) (c := c) v 8 (by rw [hu]; rfl)
  rw [hcfg, hu] at hsounds
  refine ⟨_, cyclesWith_eq _ u, ?_⟩
  rw [hplayed.samples, ← range_map_dutyPos_downwards, List.map_map]
  simp only [hcfg, hu, Channel.levelAt_of_not_silentNow hsounds]
  rfl

/-- Settles O56: with `Clock` as one record update, each clause is a case of the amplitude. -/
theorem clockStepsDownThenSamples : Obligations.ClockStepsDownThenSamples := by
  intro cfg stamp i silent
  refine ⟨i.chan.dutyPos - 1#3, _, dutyPos_sub_toNat _ 1, Instance.clock_eq cfg stamp i, ?_⟩
  rw [Instance.amplitude_eq]
  refine ⟨fun h => if_pos h, fun h => if_neg h, fun hbit => ?_, fun hvol => ?_⟩
  · simp [hbit]
  · simp [hvol]

end

section
/-! SUPPORT. Proofs of the family `42_sweep.md`: the target in each case (R122, R123), the recompute and its commit guard
(R121, R124), the sweep tick alone and repeated (R126 to R129), silence (R151, R179), and the target width (R125). -/

namespace Sys2Proof.Machine

/-! ## The target when subtracting (R122, R123) -/

section Target
variable (cfg : Config) (p : BitVec 11) (k : BitVec 3)

/-- `Second` subtracts exactly. -/
theorem sweepTarget_second_eq_sub :
    (sweepTarget cfg .second p k true : Int) = (p.toNat : Int) - (p.toNat / 2 ^ k.toNat : Nat) := by
  rw [sweepTarget_second_sub, Nat.shiftRight_eq_div_pow, Nat.cast_sub (Nat.div_le_self ..)]

/-- `First` subtracts one more than `Second`, modulo `2^TW` (D4). -/
theorem sweepTarget_first_eq_emod :
    (sweepTarget cfg .first p k true : Int) = ((sweepTarget cfg .second p k true : Int) - 1) % 2 ^ cfg.tw :=
  Int.toNat_of_nonneg (Int.emod_nonneg _ (by positivity))

/-- One more than the target of `First` is that of `Second`, modulo `2^TW`. -/
theorem sweepTarget_first_add_one_mod :
    (sweepTarget cfg .first p k true + 1) % 2 ^ cfg.tw = sweepTarget cfg .second p k true := by
  have hp := p.isLt
  have htw := Config.tw_ge cfg
  have hle : sweepTarget cfg .second p k true ≤ p.toNat := by
    rw [sweepTarget_second_sub]; exact Nat.sub_le ..
  zify
  rw [sweepTarget_first_eq_emod, Int.emod_add_emod, Int.sub_add_cancel]
  exact_mod_cast Nat.mod_eq_of_lt (by omega)

end Target

/-! ## The recompute (R121, R124) -/

section Recompute
variable {cfg : Config} {ch : Channel}

/-- A recompute writes the target and at most the period. -/
theorem Channel.recomputeTarget_frame (cfg : Config) (apply : Bool) (ch : Channel) :
    ch.recomputeTarget cfg apply =
      { ch with
        sweepTargetPeriod := ch.freshTarget cfg
        period := (ch.recomputeTarget cfg apply).period } := by
  cases apply with
  | false => rfl
  | true => rw [Channel.recomputeTarget_true]

/-- Under the guard the period takes the target, which then fits 11 bits. -/
theorem Channel.recomputeTarget_period_of_mayCommit (h : ch.mayCommit (ch.freshTarget cfg) = true) :
    (ch.recomputeTarget cfg true).period.toNat = ch.freshTarget cfg := by
  obtain ⟨-, -, hle⟩ := (ch.mayCommit_iff _).mp h
  rw [Channel.recomputeTarget_true, h, if_pos rfl, BitVec.toNat_ofNat]
  omega

/-- Without the request to apply, or outside the guard, the period stays. -/
theorem Channel.recomputeTarget_period_of_not {apply : Bool}
    (h : ¬ (apply = true ∧ ch.mayCommit (ch.freshTarget cfg) = true)) :
    (ch.recomputeTarget cfg apply).period = ch.period := by
  cases apply with
  | false => rfl
  | true =>
    rw [Channel.recomputeTarget_true]
    exact if_neg fun hguard => h ⟨rfl, hguard⟩

/-- A silent channel never meets the guard (R124). -/
theorem Channel.SilentNow.recomputeTarget_period (h : ch.SilentNow cfg) (apply : Bool) :
    (ch.recomputeTarget cfg apply).period = ch.period := by
  refine Channel.recomputeTarget_period_of_not fun ⟨_, hguard⟩ => ?_
  obtain ⟨-, hperiod, htarget⟩ := (ch.mayCommit_iff _).mp hguard
  rcases h with hlow | hhigh <;> omega

end Recompute

/-! ## Sweep ticks one after another (R127, R129) -/

/-- `SWP` completes and runs one sweep tick at each instance (R56, R126). -/
theorem exists_exec_swp (s : State) :
    ∃ t, exec .swp s = .next t ∧ ∀ c, t.inst c = (s.inst c).tickSweep s.config :=
  ⟨_, exec_swp s, fun c => State.inst_both s c _⟩

/-- Sweep ticks always complete, and tick each Channel State on its own. -/
theorem exists_execAll_ticks (n : Nat) (s : State) :
    ∃ t, execAll (List.replicate n .swp) s = .next t ∧
      ∀ c, (t.inst c).chan = (Channel.tickSweep s.config)^[n] (s.inst c).chan := by
  induction n generalizing s with
  | zero => exact ⟨s, rfl, fun _ => rfl⟩
  | succ n ih =>
    obtain ⟨t, hrun, hchan⟩ := ih (s.both (Instance.tickSweep s.config))
    refine ⟨t, (execAll_cons (exec_swp s)).trans hrun, fun c => ?_⟩
    rw [hchan, State.both_config, State.inst_both, Instance.tickSweep_chan, Function.iterate_succ_apply]

section Ticks
variable {cfg : Config} {ch : Channel}

/-- With nothing pending, ticks only count a running divider down. -/
theorem Channel.iterate_tickSweep_countdown (hp : ch.sweepReloadPending = false) {n : Nat} (hn : n ≤ ch.sweepDivider) :
    (Channel.tickSweep cfg)^[n] ch = { ch with sweepDivider := ch.sweepDivider - n } := by
  induction n with
  | zero => rfl
  | succ n ih =>
    rw [Function.iterate_succ_apply', ih (Nat.le_of_succ_le hn)]
    exact Channel.tickSweep_count cfg { ch with sweepDivider := ch.sweepDivider - n } hp (Nat.sub_pos_of_lt hn)

/-- An enabled sweep at the start of a round: nothing is pending and the divider stands at its period `d`. -/
structure Channel.Reloaded (d : Nat) (ch : Channel) : Prop where
  enabled : ch.sweepEnabled = true
  notPending : ch.sweepReloadPending = false
  dividerPeriod : ch.sweepDividerPeriod = d
  divider : ch.sweepDivider = d

theorem Channel.Reloaded.iterate_recomputeTarget {d : Nat} (h : ch.Reloaded d) (n : Nat) :
    ((Channel.recomputeTarget cfg true)^[n] ch).Reloaded d := by
  induction n with
  | zero => exact h
  | succ n ih =>
    rw [Function.iterate_succ_apply', Channel.recomputeTarget_frame]
    exact { ih with }

/-- A round of `d + 1` ticks applies the sweep once and reloads (R127). -/
theorem Channel.Reloaded.iterate_tickSweep_round {d : Nat} (h : ch.Reloaded d) :
    (Channel.tickSweep cfg)^[d + 1] ch = ch.recomputeTarget cfg true := by
  have hexpired := Channel.tickSweep_apply cfg { ch with sweepDivider := 0 } h.notPending rfl h.enabled
  rw [Function.iterate_succ_apply', Channel.iterate_tickSweep_countdown h.notPending h.divider.ge, h.divider,
    Nat.sub_self, hexpired, Channel.recomputeTarget_divider, h.dividerPeriod, ← h.divider,
    Channel.recomputeTarget_true]

/-- `n` rounds apply the sweep `n` times. -/
theorem Channel.Reloaded.iterate_tickSweep_rounds {d : Nat} (h : ch.Reloaded d) (n : Nat) :
    (Channel.tickSweep cfg)^[(d + 1) * n] ch = (Channel.recomputeTarget cfg true)^[n] ch := by
  induction n with
  | zero => rfl
  | succ n ih =>
    rw [Nat.mul_succ, Nat.add_comm, Function.iterate_add_apply, ih,
      (h.iterate_recomputeTarget n).iterate_tickSweep_round, Function.iterate_succ_apply']

/-- Any number of ticks is the full rounds, then a count-down (R127). -/
theorem Channel.Reloaded.iterate_tickSweep {d : Nat} (h : ch.Reloaded d) (n : Nat) :
    (Channel.tickSweep cfg)^[n] ch =
      { (Channel.recomputeTarget cfg true)^[n / (d + 1)] ch with sweepDivider := d - n % (d + 1) } := by
  have hround := h.iterate_recomputeTarget (cfg := cfg) (n / (d + 1))
  have hrest : n % (d + 1) ≤ d := Nat.le_of_lt_succ (Nat.mod_lt n (Nat.add_one_pos d))
  calc
    _ = (Channel.tickSweep cfg)^[n % (d + 1) + (d + 1) * (n / (d + 1))] ch := by rw [Nat.mod_add_div]
    _ = (Channel.tickSweep cfg)^[n % (d + 1)] ((Channel.recomputeTarget cfg true)^[n / (d + 1)] ch) := by
      rw [Function.iterate_add_apply, h.iterate_tickSweep_rounds]
    _ = _ := by rw [Channel.iterate_tickSweep_countdown hround.notPending (by rwa [hround.divider]), hround.divider]

/-- With nothing pending, a tick of a disabled sweep counts the divider down, not below 0 (R129). -/
theorem Channel.tickSweep_disabled (he : ch.sweepEnabled = false) (hp : ch.sweepReloadPending = false) :
    ch.tickSweep cfg = { ch with sweepDivider := ch.sweepDivider - 1 } := by
  rcases Nat.eq_zero_or_pos ch.sweepDivider with hd | hd
  · rw [Channel.tickSweep_idle cfg ch hp hd he, hd, Nat.zero_sub, ← hd]
  · exact Channel.tickSweep_count cfg ch hp hd

theorem Channel.iterate_tickSweep_disabled (he : ch.sweepEnabled = false) (hp : ch.sweepReloadPending = false)
    (n : Nat) : (Channel.tickSweep cfg)^[n] ch = { ch with sweepDivider := ch.sweepDivider - n } := by
  induction n with
  | zero => rfl
  | succ n ih =>
    rw [Function.iterate_succ_apply', ih]
    exact Channel.tickSweep_disabled (ch := { ch with sweepDivider := ch.sweepDivider - n }) he hp

/-- A pending reload takes the first tick of a disabled sweep (R129). -/
theorem Channel.iterate_tickSweep_disabled_pending (he : ch.sweepEnabled = false) (hp : ch.sweepReloadPending = true)
    (n : Nat) :
    (Channel.tickSweep cfg)^[n + 1] ch =
      { ch with sweepReloadPending := false, sweepDivider := ch.sweepDividerPeriod - n } := by
  rw [Function.iterate_succ_apply, Channel.tickSweep_pending_reload cfg ch hp (by simp [he])]
  exact Channel.iterate_tickSweep_disabled
    (ch := { ch with sweepDivider := ch.sweepDividerPeriod, sweepReloadPending := false }) he rfl n

end Ticks

/-! ## Silence (R124, R151, R179) -/

section Silence
variable {cfg : Config} {ch : Channel}

/-- A sweep tick leaves the period, or recomputes it (R126). -/
theorem Channel.tickSweep_period :
    (ch.tickSweep cfg).period = ch.period ∨ (ch.tickSweep cfg).period = (ch.recomputeTarget cfg true).period := by
  rcases ch.tickSweep_cases cfg with ⟨-, -, -, h⟩ | ⟨-, -, h⟩ | ⟨-, -, h⟩ | ⟨-, -, -, h⟩ | ⟨-, -, -, h⟩
  · exact .inr (by rw [h])
  · exact .inl (by rw [h])
  · exact .inl (by rw [h])
  · exact .inr (by rw [h])
  · exact .inl (by rw [h])

theorem Channel.SilentNow.tickSweep_period (h : ch.SilentNow cfg) : (ch.tickSweep cfg).period = ch.period :=
  Channel.tickSweep_period.elim id fun hp => hp.trans (h.recomputeTarget_period true)

/-- Silence is a matter of four fields, which a sweep tick keeps. -/
theorem Channel.SilentNow.tickSweep (h : ch.SilentNow cfg) : (ch.tickSweep cfg).SilentNow cfg := by
  simpa [Channel.SilentNow, Channel.freshTarget, h.tickSweep_period] using h

/-- A chip cycle of a silent channel emits 0 or nothing. -/
theorem Instance.cycle_samples_of_silentNow {stamp : Nat} {i : Instance} (h : i.chan.SilentNow cfg) :
    ∃ emitted, (i.cycle cfg stamp).samples = i.samples ++ emitted ∧ ∀ x ∈ emitted, x.amplitude = 0 := by
  rcases Nat.lt_or_ge 1 i.chan.timer with ht | ht
  · exact ⟨[], by rw [Instance.cycle_samples_of_lt _ _ _ ht, List.append_nil], nofun⟩
  · refine ⟨_, Instance.cycle_samples_eq_levelAt _ _ _ ht, fun x hx => ?_⟩
    rw [List.mem_singleton.mp hx]
    exact if_pos h

/-- What events without a write leave of a silent instance `c` of `s`: the period and the silence, and only zeros more. -/
structure State.StaysSilent (c : Identity) (s t : State) : Prop where
  period : (t.inst c).chan.period = (s.inst c).chan.period
  silent : (t.inst c).chan.SilentNow t.config
  samples : ∃ emitted, (t.inst c).samples = (s.inst c).samples ++ emitted ∧ ∀ x ∈ emitted, x.amplitude = 0

theorem State.StaysSilent.trans {c : Identity} {s t u : State} (h : State.StaysSilent c s t)
    (h' : State.StaysSilent c t u) : State.StaysSilent c s u := by
  obtain ⟨xs, hxs, hzero⟩ := h.samples
  obtain ⟨ys, hys, hzero'⟩ := h'.samples
  refine ⟨h'.period.trans h.period, h'.silent, xs ++ ys, by rw [hys, hxs, List.append_assoc], fun x hx => ?_⟩
  exact (List.mem_append.mp hx).elim (hzero x) (hzero' x)

variable {s : State} {c : Identity}

theorem State.exists_staysSilent_cyc (h : (s.inst c).chan.SilentNow s.config) :
    ∃ t, exec .cyc s = .next t ∧ State.StaysSilent c s t := by
  obtain ⟨t, hexec, hinst⟩ := exists_exec_cyc s
  obtain ⟨hcfg, -⟩ := exec_next hexec
  refine ⟨t, hexec, ?_, ?_, ?_⟩
  · rw [hinst, Instance.cycle_chan]
  · rw [hinst, hcfg, Instance.cycle_chan]; exact h
  · rw [hinst]; exact Instance.cycle_samples_of_silentNow h

theorem State.exists_staysSilent_swp (h : (s.inst c).chan.SilentNow s.config) :
    ∃ t, exec .swp s = .next t ∧ State.StaysSilent c s t := by
  obtain ⟨t, hexec, hinst⟩ := exists_exec_swp s
  obtain ⟨hcfg, -⟩ := exec_next hexec
  refine ⟨t, hexec, ?_, ?_, [], ?_, nofun⟩
  · rw [hinst]; exact h.tickSweep_period
  · rw [hinst, hcfg]; exact h.tickSweep
  · rw [hinst, List.append_nil]; rfl

/-- Chip cycles and sweep ticks, in any order, complete and keep a silent instance silent. -/
theorem State.exists_staysSilent {events : List Instr} (hevents : ∀ i ∈ events, i = .cyc ∨ i = .swp)
    (h : (s.inst c).chan.SilentNow s.config) : ∃ t, execAll events s = .next t ∧ State.StaysSilent c s t := by
  induction events generalizing s with
  | nil => exact ⟨s, rfl, rfl, h, [], (List.append_nil _).symm, nofun⟩
  | cons i later ih =>
    obtain ⟨hi, hlater⟩ := List.forall_mem_cons.mp hevents
    obtain ⟨t, hexec, hfirst⟩ : ∃ t, exec i s = .next t ∧ State.StaysSilent c s t := by
      rcases hi with rfl | rfl
      · exact State.exists_staysSilent_cyc h
      · exact State.exists_staysSilent_swp h
    obtain ⟨u, hrun, hrest⟩ := ih hlater hfirst.silent
    exact ⟨u, (execAll_cons hexec).trans hrun, hfirst.trans hrest⟩

end Silence

/-! ## Another target width (R125) -/

/-- The parameters with the target width `12 + k`. -/
def Config.withTwExtra (cfg : Config) (k : Nat) : Config := { cfg with twExtra := k }

/-- The instance with its stored target read at the width `12 + k`. -/
def Instance.retargeted (cfg : Config) (k : Nat) (i : Instance) : Instance :=
  { i with chan := i.chan.retargeted cfg.tw (Config.withTwExtra cfg k).tw }

/-- A state is its parameters, its instances and what stands around them. -/
theorem State.eq_of_inst {s t : State} (hcfg : s.config = t.config) (hin : s.input = t.input)
    (hrec : s.recordIn = t.recordIn) (hnow : s.cycleIndex = t.cycleIndex) (hinst : ∀ c, s.inst c = t.inst c) :
    s = t := by
  obtain ⟨cfg, a, b, inp, rec, now⟩ := s
  obtain rfl : a = t.first := hinst .first
  obtain rfl : b = t.second := hinst .second
  subst hcfg hin hrec hnow
  rfl

section Width
variable (cfg cfg' : Config) (k : Nat) (b : Byte) (stamp : Nat) (ch : Channel) (i : Instance)

/-- An unwrapped target is the same number at every width. -/
theorem retarget_of_le (tw' : Nat) {target : Nat} (h : target ≤ 4094) : retarget cfg.tw tw' target = target := by
  have htw := Config.tw_ge cfg
  exact if_neg (by omega)

theorem retarget_wrapped (tw tw' : Nat) : retarget tw tw' (2 ^ tw - 1) = 2 ^ tw' - 1 := if_pos rfl

/-- Whether a target mutes or may be committed is the same at every width. -/
theorem lt_retarget_iff (target : Nat) : 2047 < retarget cfg.tw cfg'.tw target ↔ 2047 < target := by
  have htw := Config.tw_ge cfg
  have htw' := Config.tw_ge cfg'
  unfold retarget
  split <;> omega

/-- Every target is computed at any width as at any other, up to the reading of the wrapped value (R123, R125). -/
theorem sweepTarget_eq_retarget (c : Identity) (p : BitVec 11) (s : BitVec 3) (neg : Bool) :
    sweepTarget cfg' c p s neg = retarget cfg.tw cfg'.tw (sweepTarget cfg c p s neg) := by
  have hp := p.isLt
  have hdelta := shiftRight_le p.toNat s.toNat
  generalize hd : p.toNat >>> s.toNat = delta at hdelta
  cases neg with
  | false => rw [sweepTarget_add, sweepTarget_add, hd, retarget_of_le _ _ (by omega)]
  | true =>
    cases c with
    | first =>
      rw [sweepTarget_first_sub, sweepTarget_first_sub, hd]
      split
      · rw [retarget_wrapped]
      · rw [retarget_of_le _ _ (by omega)]
    | second => rw [sweepTarget_second_sub, sweepTarget_second_sub, hd, retarget_of_le _ _ (by omega)]

@[simp] theorem Channel.retargeted_timer (tw tw' : Nat) : (ch.retargeted tw tw').timer = ch.timer := rfl
@[simp] theorem Channel.retargeted_period (tw tw' : Nat) : (ch.retargeted tw tw').period = ch.period := rfl
@[simp] theorem Channel.retargeted_dutyPos (tw tw' : Nat) : (ch.retargeted tw tw').dutyPos = ch.dutyPos := rfl

theorem Channel.freshTarget_retargeted :
    (ch.retargeted cfg.tw cfg'.tw).freshTarget cfg' = retarget cfg.tw cfg'.tw (ch.freshTarget cfg) :=
  sweepTarget_eq_retarget ..

theorem Channel.silentNow_retargeted :
    (ch.retargeted cfg.tw cfg'.tw).SilentNow cfg' ↔ ch.SilentNow cfg := by
  rw [Channel.SilentNow, Channel.freshTarget_retargeted, lt_retarget_iff]
  rfl

theorem Channel.mayCommit_retarget (target : Nat) :
    (ch.retargeted cfg.tw cfg'.tw).mayCommit (retarget cfg.tw cfg'.tw target) = ch.mayCommit target := by
  have hle : retarget cfg.tw cfg'.tw target ≤ 2047 ↔ target ≤ 2047 := by
    rw [← Nat.not_lt, lt_retarget_iff, Nat.not_lt]
  rw [Bool.eq_iff_iff, Channel.mayCommit_iff, Channel.mayCommit_iff, hle]
  rfl

/-- What is committed is at most 2047, so no wrapped value reaches a period. -/
theorem Channel.recomputeTarget_retargeted :
    (ch.retargeted cfg.tw cfg'.tw).recomputeTarget cfg' true =
      (ch.recomputeTarget cfg true).retargeted cfg.tw cfg'.tw := by
  rw [Channel.recomputeTarget_true, Channel.recomputeTarget_true, Channel.freshTarget_retargeted,
    Channel.mayCommit_retarget]
  by_cases hguard : ch.mayCommit (ch.freshTarget cfg) = true
  · obtain ⟨-, -, hle⟩ := (ch.mayCommit_iff _).mp hguard
    have hsame : retarget cfg.tw cfg'.tw (ch.freshTarget cfg) = ch.freshTarget cfg := retarget_of_le cfg _ (by omega)
    simp [hguard, Channel.retargeted, hsame]
  · simp [hguard, Channel.retargeted]

theorem Channel.tickSweep_retargeted :
    (ch.retargeted cfg.tw cfg'.tw).tickSweep cfg' = (ch.tickSweep cfg).retargeted cfg.tw cfg'.tw := by
  rcases ch.tickSweep_cases cfg with ⟨hp, hd, he, h⟩ | ⟨hp, hd, h⟩ | ⟨hp, hd, h⟩ | ⟨hp, hd, he, h⟩ | ⟨hp, hd, he, h⟩
  · rw [h, Channel.tickSweep_pending_apply cfg' (ch.retargeted _ _) hp hd he, Channel.recomputeTarget_retargeted]
    rfl
  · rw [h]; exact Channel.tickSweep_pending_reload cfg' (ch.retargeted _ _) hp hd
  · rw [h]; exact Channel.tickSweep_count cfg' (ch.retargeted _ _) hp hd
  · rw [h, Channel.tickSweep_apply cfg' (ch.retargeted _ _) hp hd he, Channel.recomputeTarget_retargeted]
    rfl
  · rw [h]; exact Channel.tickSweep_idle cfg' (ch.retargeted _ _) hp hd he

theorem Instance.tickSweep_retargeted :
    (i.retargeted cfg k).tickSweep (Config.withTwExtra cfg k) = (i.tickSweep cfg).retargeted cfg k :=
  congrArg (fun ch => { i with chan := ch }) (Channel.tickSweep_retargeted cfg (Config.withTwExtra cfg k) i.chan)

/-- The level is the same at every width: the table and the volume's width are, and so is silence. -/
theorem Channel.levelAt_retargeted (vol : Nat) (q : BitVec 3) :
    (ch.retargeted cfg.tw (Config.withTwExtra cfg k).tw).levelAt (Config.withTwExtra cfg k) vol q = ch.levelAt cfg vol q :=
  if_congr (Channel.silentNow_retargeted cfg (Config.withTwExtra cfg k) ch) rfl rfl

/-- A chip cycle as one record update (R100, R101, R103). -/
theorem Instance.cycle_eq :
    i.cycle cfg stamp =
      { i with
        chan := { i.chan with
          sweepTargetPeriod := i.chan.freshTarget cfg
          timer := if i.chan.timer ≤ 1 then i.chan.period.toNat + 1 else i.chan.timer - 1
          dutyPos := if i.chan.timer ≤ 1 then i.chan.dutyPos - 1#3 else i.chan.dutyPos }
        samples := i.samples ++
          if i.chan.timer ≤ 1 then [⟨i.chan.levelAt cfg i.vol (i.chan.dutyPos - 1#3), stamp⟩] else [] } := by
  rcases Nat.lt_or_ge 1 i.chan.timer with h | h
  · simp [Instance.cycle_of_lt cfg stamp i h, Nat.not_le.mpr h]
  · simp [Instance.cycle_of_le cfg stamp i h, h, Channel.levelAt]

theorem Instance.cycle_retargeted :
    (i.retargeted cfg k).cycle (Config.withTwExtra cfg k) stamp = (i.cycle cfg stamp).retargeted cfg k := by
  rw [Instance.cycle_eq, Instance.cycle_eq]
  simp only [Instance.retargeted, Channel.freshTarget_retargeted, Channel.levelAt_retargeted,
    Channel.retargeted_timer, Channel.retargeted_period, Channel.retargeted_dutyPos]
  rfl

theorem Channel.reset_retargeted (c : Identity) (tw' : Nat) :
    (Channel.reset c).retargeted cfg.tw tw' = Channel.reset c := by
  unfold Channel.retargeted
  rw [show (Channel.reset c).sweepTargetPeriod = 0 from rfl, retarget_of_le cfg tw' (by decide)]
  rfl

theorem Instance.restart_retargeted : (i.retargeted cfg k).restart = i.restart.retargeted cfg k :=
  congrArg (fun ch => { i with chan := ch }) (Channel.reset_retargeted cfg i.chan.identity _).symm

end Width

section Rebuild
variable (s : State) (k : Nat)

@[simp] theorem State.withTargetWidth_config : (s.withTargetWidth k).config = Config.withTwExtra s.config k := rfl
@[simp] theorem State.withTargetWidth_input : (s.withTargetWidth k).input = s.input := rfl
@[simp] theorem State.withTargetWidth_recordIn : (s.withTargetWidth k).recordIn = s.recordIn := rfl
@[simp] theorem State.withTargetWidth_cycleIndex : (s.withTargetWidth k).cycleIndex = s.cycleIndex := rfl
@[simp] theorem State.inst_withTargetWidth (c : Identity) :
    (s.withTargetWidth k).inst c = (s.inst c).retargeted s.config k := by
  cases c <;> rfl

/-- At each instance an event off the snapshot port commutes with rebuilding the chip (R125). -/
theorem State.instAfter_withTargetWidth {i : Instr} (hport : ∀ c, i ≠ .snap c ∧ i ≠ .rest c) (c : Identity) :
    (s.withTargetWidth k).instAfter c i = (s.instAfter c i).retargeted s.config k := by
  cases i with
  | snap d => exact absurd rfl (hport d).1
  | rest d => exact absurd rfl (hport d).2
  | cyc => simp [Instance.cycle_retargeted]
  | swp => simp [State.instAfter, Instance.tickSweep_retargeted]
  | rst => simp [State.instAfter, Instance.restart_retargeted]
  | w0 d b | w1 d b | w2 d b | w3 d b =>
    simp only [State.instAfter, State.inst_withTargetWidth]
    split
    · rfl
    · rfl

theorem exec_withTargetWidth {i : Instr} {t : State} (hport : ∀ c, i ≠ .snap c ∧ i ≠ .rest c)
    (h : exec i s = .next t) : exec i (s.withTargetWidth k) = .next (t.withTargetWidth k) := by
  obtain ⟨t', h'⟩ := (exec_completes_iff (s.withTargetWidth k) i).mpr fun d hd => absurd hd (hport d).2
  obtain ⟨hcfg, hin, hrec, hnow, hinst⟩ := exec_next h
  obtain ⟨hcfg', hin', hrec', hnow', hinst'⟩ := exec_next h'
  have ht : t' = t.withTargetWidth k := by
    apply State.eq_of_inst
    · simp [hcfg', hcfg]
    · simp [hin', hin]
    · simp [hrec', hrec]
    · simp [hnow', hnow]
    · intro c
      rw [hinst', State.instAfter_withTargetWidth s k hport, State.inst_withTargetWidth, hinst, hcfg]
  rw [h', ht]

end Rebuild

end Sys2Proof.Machine

/-! ## The statements -/

open Sys2Proof Sys2Proof.Machine

/-- Settles O28, from the equations of the target; the wrap is where the difference is 0. -/
theorem targetValues : Obligations.TargetValues := by
  intro cfg p k delta
  have hdelta : p.toNat >>> k.toNat = delta := Nat.shiftRight_eq_div_pow ..
  have hwrap : delta = p.toNat ↔ k = 0#3 ∨ p = 0#11 := by
    rw [← hdelta, shiftRight_eq_self, BitVec.toNat_eq, BitVec.toNat_eq]; rfl
  refine ⟨fun c => ?_, ?_, fun h => ?_, fun h => ?_⟩
  · rw [sweepTarget_add, hdelta]
  · rw [sweepTarget_second_sub, hdelta]
  · rw [sweepTarget_first_sub, hdelta, if_pos (hwrap.mpr h)]
  · rw [sweepTarget_first_sub, hdelta, if_neg (mt hwrap.mp h)]

/-- Settles O29: `First` narrows the target of `Second` minus one. -/
theorem firstSubtractsOneMore : Obligations.FirstSubtractsOneMore := by
  intro cfg p k
  refine ⟨sweepTarget_first_add_one_mod cfg p k, ?_, sweepTarget_second_eq_sub cfg p k, rfl⟩
  rw [sweepTarget_first_eq_emod, sweepTarget_second_eq_sub]

/-- Settles O30: the frame of a recompute, and its period inside and outside the guard. -/
theorem recomputeStoresTheTargetAndGuardsTheCommit : Obligations.RecomputeStoresTheTargetAndGuardsTheCommit := by
  intro cfg apply ch target z
  refine ⟨ch.recomputeTarget_frame cfg apply, fun ⟨happly, hguard⟩ => ?_, fun h => ?_⟩
  · subst happly
    exact Channel.recomputeTarget_period_of_mayCommit ((ch.mayCommit_iff target).mpr hguard)
  · refine Channel.recomputeTarget_period_of_not fun ⟨happly, hguard⟩ => ?_
    exact h ⟨happly, (ch.mayCommit_iff target).mp hguard⟩

/-- Settles O31, branch by branch of the tick at one channel. -/
theorem sweepTickDecisionTree : Obligations.SweepTickDecisionTree := by
  refine ⟨decodeWord_encode .swp, fun s => ?_⟩
  obtain ⟨t, hexec, hinst⟩ := exists_exec_swp s
  obtain ⟨hcfg, hin, hrec, hnow, -⟩ := exec_next hexec
  refine ⟨t, hexec, hcfg, hin, hrec, hnow, fun c => ?_⟩
  rw [hinst]
  refine ⟨rfl, Channel.tickSweep_pending_apply _ _, fun hp h => ?_, Channel.tickSweep_count _ _,
    Channel.tickSweep_apply _ _, Channel.tickSweep_idle _ _⟩
  refine Channel.tickSweep_pending_reload _ _ hp fun ⟨hd, he⟩ => ?_
  simp [hd, he] at h

/-- Settles O32: a sweep tick moves four fields of the Channel State only. -/
theorem sweepTickFrame : Obligations.SweepTickFrame := by
  intro s t hexec
  obtain ⟨hcfg, hin, hrec, hnow, hinst⟩ := exec_next hexec
  refine ⟨hcfg, hin, hrec, hnow, fun c => ?_⟩
  have htick : t.inst c = (s.inst c).tickSweep s.config := hinst c
  rw [htick, Instance.tickSweep_chan, Channel.tickSweep_frame]
  exact ⟨rfl, rfl⟩

/-- Settles O33: a round of `sweepDividerPeriod + 1` ticks is one application. -/
theorem sweepAppliesEveryDividerPeriodPlusOneTicks : Obligations.SweepAppliesEveryDividerPeriodPlusOneTicks := by
  intro s c n henabled hpending hdivider
  obtain ⟨t, hrun, hchan⟩ := exists_execAll_ticks n s
  have hreloaded : (s.inst c).chan.Reloaded (s.inst c).chan.sweepDividerPeriod := ⟨henabled, hpending, rfl, hdivider⟩
  exact ⟨t, hrun, (hchan c).trans (hreloaded.iterate_tickSweep n)⟩

/-- Settles O34: after the `W1` the reload is pending, and the divider it did not touch selects the branch of the tick. -/
theorem w1ThenTickAppliesOnlyAtDividerZero : Obligations.W1ThenTickAppliesOnlyAtDividerZero := by
  intro s c b henable
  obtain ⟨t, hexec, hinst⟩ := exists_exec_swp (s.setInst c ((s.inst c).writeSweep b))
  refine ⟨_, t, exec_w1 c b s, (execAll_cons (exec_w1 c b s)).trans (execAll_cons hexec), ?_⟩
  rw [hinst, State.inst_setInst_self, State.setInst_config, Instance.tickSweep_chan, Instance.writeSweep_chan]
  have hpending : ((s.inst c).chan.initializeSweep b).sweepReloadPending = true := rfl
  by_cases hd : (s.inst c).chan.sweepDivider = 0
  · rw [Channel.tickSweep_pending_apply s.config _ hpending hd henable]
    exact ⟨rfl, rfl, fun _ => ⟨rfl, by rw [Channel.recomputeTarget_true]; rfl⟩, absurd hd⟩
  · rw [Channel.tickSweep_pending_reload s.config _ hpending fun h => hd h.1]
    exact ⟨rfl, rfl, fun h => absurd h hd, fun _ => ⟨rfl, rfl⟩⟩

/-- Settles O35: a pending reload takes the first tick, every other tick counts down. -/
theorem disabledSweepOnlyCounts : Obligations.DisabledSweepOnlyCounts := by
  intro s c n hdisabled
  obtain ⟨t, hrun, hchan⟩ := exists_execAll_ticks n s
  refine ⟨t, hrun, (hchan c).trans ?_⟩
  cases hp : (s.inst c).chan.sweepReloadPending with
  | false => rw [Channel.iterate_tickSweep_disabled hdisabled hp]; simp [hp]
  | true =>
    cases n with
    | zero => simp [← hp]
    | succ n => rw [Channel.iterate_tickSweep_disabled_pending hdisabled hp]; simp

/-- Settles O36, event by event: neither a chip cycle nor a sweep tick ends the silence. -/
theorem silenceLastsUntilTheNextWrite : Obligations.SilenceLastsUntilTheNextWrite := by
  intro events s c hevents hsilent
  obtain ⟨t, hrun, hstays⟩ := State.exists_staysSilent hevents hsilent
  exact ⟨t, hrun, hstays.period, hstays.samples⟩

/-- Settles O37: events commute with rebuilding the chip, which leaves the periods and the traces. -/
theorem targetWidthIsUnobservable : Obligations.TargetWidthIsUnobservable := by
  intro i s t k hport hexec
  refine ⟨exec_withTargetWidth s k hport hexec, fun c => ?_⟩
  rw [State.inst_withTargetWidth]
  exact ⟨rfl, rfl, rfl⟩

end

section
/-! SUPPORT. Proofs of the family `43_snapshot.md`: which records `REST` accepts (R142, D22), and the record of a Channel
State within the invariants, which it accepts and restores (R141, R143). -/

namespace Sys2Proof.Machine

/-! ## Which records `REST` accepts (R37, R142, D22) -/

/-- `Second` is the identity that is not `First`. -/
theorem Identity.ne_first_iff {c : Identity} : c ≠ .first ↔ c = .second := by
  cases c <;> decide

/-- A record is out of range through one of its four bounded fields. -/
theorem Record.inRange_eq_false_iff (cfg : Config) (c : Identity) (r : Record) :
    r.inRange cfg c = false ↔
      2048 < r.timer ∨ r.sweepDividerPeriod = 0 ∨ 8 < r.sweepDividerPeriod ∨ 8 < r.sweepDivider ∨
        (4094 < r.sweepTargetPeriod ∧ (c = .second ∨ r.sweepTargetPeriod ≠ 2 ^ cfg.tw - 1)) := by
  rw [← Bool.not_eq_true, Record.inRange_iff, ← Identity.ne_first_iff]
  simp only [not_and_or, not_or, not_le, Nat.lt_one_iff, ne_eq]

/-- `REST` is refused exactly when the check of the record fails. -/
theorem exec_rest_refused_iff (c : Identity) (s : State) :
    exec (.rest c) s = .refused (.recordOutsideInvariants c) ↔
      s.recordIn.inRange s.config (s.inst c).chan.identity = false := by
  refine ⟨fun hrefused => ?_, exec_rest_of_not_inRange c s⟩
  by_contra hr
  rw [exec_rest_of_inRange c s (Bool.eq_true_of_not_eq_false hr)] at hrefused
  cases hrefused

/-! ## The record of a Channel State within the invariants (R141, R143) -/

/-- A snapshot within the invariants is within range at every chip with the same `TW`. -/
theorem Instance.Inv.toRecord_inRange {cfg cfg' : Config} {now : Nat} {c : Identity} {i : Instance}
    (h : i.Inv cfg now c) (htw : cfg'.tw = cfg.tw) : i.chan.toRecord.inRange cfg' i.chan.identity = true := by
  rw [Record.inRange_iff, h.identity, htw]
  exact ⟨h.timer, h.dividerPeriod_pos, h.dividerPeriod_le, h.divider, h.target⟩

/-- The record that `SNAP` answers is that of the Channel State (R141). -/
theorem exec_snap_record {c : Identity} {s t : State} {r : Record} (hsnap : exec (.snap c) s = .next t)
    (hr : (t.inst c).records = (s.inst c).records ++ [r]) : r = (s.inst c).chan.toRecord := by
  obtain ⟨-, -, -, -, hinst⟩ := exec_next hsnap
  rw [hinst c, State.instAfter_records, if_pos rfl] at hr
  exact (List.singleton_injective (List.append_cancel_left hr)).symm

end Sys2Proof.Machine

/-! ## The statements -/

open Sys2Proof Sys2Proof.Machine

/-- Settles O40: the check of the record fails through one of its bounded fields. -/
theorem restoreRefusesForeignRecords : Obligations.RestoreRefusesForeignRecords := by
  intro c s
  rw [exec_rest_refused_iff, Record.inRange_eq_false_iff]

/-- Settles O41: the record of a state within the invariants is accepted, and assigning it undoes the snapshot. -/
theorem snapshotRestoreRoundTrip : Obligations.SnapshotRestoreRoundTrip := by
  intro c s u t hinv hsnap hidentity htw hrecords
  have hrecord : u.recordIn = (s.inst c).chan.toRecord := exec_snap_record hsnap hrecords
  have haccepted : u.recordIn.inRange u.config (u.inst c).chan.identity = true := by
    rw [hrecord, hidentity]
    exact ((State.inv_iff s).mp hinv c).toRecord_inRange htw
  refine ⟨_, exec_rest_of_inRange c u haccepted, ?_⟩
  rw [State.inst_setInst_self, Instance.restore_chan, hrecord, hidentity, Channel.ofRecord_toRecord]

/-- Settles O38: the eleven fields of the record are those of the Channel State. -/
theorem snapshotAnswersTheFieldsAsTheyAre : Obligations.SnapshotAnswersTheFieldsAsTheyAre := by
  intro c s
  exact ⟨decodeWord_encode (.snap c), exec_snap c s⟩

/-- Settles O39: a record within R37 passes the check of `REST`. -/
theorem restoreAssignsTheRecord : Obligations.RestoreAssignsTheRecord := by
  intro c s r hrecord htimer hpos hle hdivider htarget
  subst hrecord
  exact exec_rest_of_inRange c s ((Record.inRange_iff _ _ _).mpr ⟨htimer, hpos, hle, hdivider, htarget⟩)

end

section
/-! SUPPORT. Proofs of the family `60_exceptions.md`: no event but a refused `REST` fails to complete (R150, R156), the
instances do not see each other (R160), and a step without input holds the state (R162). -/

namespace Sys2Proof.Machine

/-- With an empty queue the fetch is idle in the state as it stands (R162). -/
theorem step_of_input_nil {s : State} (hin : s.input = []) : step s = .next s := by
  simp [step, State.fetch, hin]

/-- What an event leaves of an instance depends on that instance, the parameters, the cycle cursor and the record input
only (R160). -/
theorem State.instAfter_congr {s s' : State} {c : Identity} (hinst : s.inst c = s'.inst c)
    (hcfg : s.config = s'.config) (hnow : s.cycleIndex = s'.cycleIndex) (hrec : s.recordIn = s'.recordIn)
    (i : Instr) : s.instAfter c i = s'.instAfter c i := by
  cases i with
  | cyc => simp only [State.instAfter_cyc, hinst, hcfg, hnow]
  | swp | rst => simp only [State.instAfter, hinst, hcfg]
  | w0 d b | w1 d b | w2 d b | w3 d b | snap d => simp only [State.instAfter, hinst, hcfg]
  | rest d => simp only [State.instAfter, hinst, hrec]

end Sys2Proof.Machine

/-! ## The statements -/

open Sys2Proof Sys2Proof.Machine

/-- Settles O50: an event that does not complete is a `REST` whose record fails the check, and that is refused by name. -/
theorem everyEventCompletes : Obligations.EveryEventCompletes := by
  intro i s
  by_cases hcompletes : ∃ t, exec i s = .next t
  · exact .inl hcompletes
  · rw [exec_completes_iff] at hcompletes
    push Not at hcompletes
    obtain ⟨c, rfl, hrange⟩ := hcompletes
    have hforeign := Bool.eq_false_of_not_eq_true hrange
    exact .inr ⟨c, rfl, hforeign, exec_rest_of_not_inRange c s hforeign⟩

/-- Settles O53: both next states hold `instAfter` at the instance, and that does not see the other instance. -/
theorem instancesAreIsolated : Obligations.InstancesAreIsolated := by
  intro i s s' t t' c hinst hcfg hnow hrec hexec hexec'
  obtain ⟨-, -, -, -, hafter⟩ := exec_next hexec
  obtain ⟨-, -, -, -, hafter'⟩ := exec_next hexec'
  rw [hafter c, hafter' c, State.instAfter_congr hinst hcfg hnow hrec i]

/-- Settles O8, by the equation of `step` at an empty queue. -/
theorem stepOnEmptyInputHoldsTheState : Obligations.StepOnEmptyInputHoldsTheState :=
  fun _ => step_of_input_nil

end

section
/-! SUPPORT. Proofs of the family `70_reset_and_hazards.md`: the reset values and what follows from them (R170, R171, R173),
the order of the period writes (R175), and the causes of silence at a `Clock` (R179). -/

namespace Sys2Proof.Machine

/-! ## Both halves of the period written (R173, R175) -/

/-- The two writes to the period leave nothing of the old one. -/
@[simp] theorem withPeriodHigh_withPeriodLow_toNat (p : BitVec 11) (lo hi : Byte) :
    (withPeriodHigh (withPeriodLow p lo) hi).toNat = hi.toNat % 8 * 256 + lo.toNat := by
  have hlo := lo.isLt
  rw [withPeriodHigh_toNat, withPeriodLow_toNat]
  omega

/-- The order of the two writes does not matter to the period. -/
theorem withPeriodLow_withPeriodHigh (p : BitVec 11) (lo hi : Byte) :
    withPeriodLow (withPeriodHigh p hi) lo = withPeriodHigh (withPeriodLow p lo) hi := by
  apply BitVec.eq_of_toNat_eq
  rw [withPeriodHigh_withPeriodLow_toNat, withPeriodLow_toNat, withPeriodHigh_toNat]
  omega

/-! ## The causes of silence (R179) -/

section Silence
variable {cfg : Config} {ch : Channel}

/-- The target is above 2047 when the sum overflows, or when the difference of `First` wraps (R123, D4). -/
theorem Channel.lt_freshTarget_iff :
    2047 < ch.freshTarget cfg ↔
      (ch.sweepNegate = false ∧ 2047 < ch.period.toNat + ch.period.toNat / 2 ^ ch.sweepShift.toNat) ∨
      (ch.identity = .first ∧ ch.sweepNegate = true ∧ (ch.sweepShift = 0#3 ∨ ch.period = 0#11)) := by
  obtain ⟨hadd, hsecond, hwrap, hexact⟩ := targetValues cfg ch.period ch.sweepShift
  have hle (n : Nat) : ch.period.toNat - n ≤ 2047 := (Nat.sub_le ..).trans (Nat.le_of_lt_succ ch.period.isLt)
  unfold Channel.freshTarget
  cases ch.sweepNegate with
  | false => simp [hadd]
  | true =>
    cases ch.identity with
    | second =>
      rw [hsecond]
      simpa using hle _
    | first =>
      by_cases h : ch.sweepShift = 0#3 ∨ ch.period = 0#11
      · have htw := Config.tw_ge cfg
        have hwrapped : 2047 < sweepTarget cfg .first ch.period ch.sweepShift true := by rw [hwrap h]; omega
        simpa [h] using hwrapped
      · rw [hexact h, Nat.sub_sub]
        simpa [h] using hle _

/-- Silent fields are those of the three causes of R179. -/
theorem Channel.silentNow_iff :
    ch.SilentNow cfg ↔
      ch.period.toNat < 8 ∨
      (ch.sweepNegate = false ∧ 2047 < ch.period.toNat + ch.period.toNat / 2 ^ ch.sweepShift.toNat) ∨
      (ch.identity = .first ∧ ch.sweepNegate = true ∧ (ch.sweepShift = 0#3 ∨ ch.period = 0#11)) :=
  or_congr_right Channel.lt_freshTarget_iff

/-- Without shift and negation the target is twice the period: silent are the periods below 8 and those from 1024 on
(R173). -/
theorem Channel.silentNow_iff_of_no_sweep (hnegate : ch.sweepNegate = false) (hshift : ch.sweepShift = 0#3) :
    ch.SilentNow cfg ↔ ch.period.toNat < 8 ∨ 1024 ≤ ch.period.toNat := by
  have hdelta : ch.period.toNat / 2 ^ (0#3).toNat = ch.period.toNat := Nat.div_one _
  rw [Channel.silentNow_iff, hnegate, hshift, hdelta]
  simp only [true_and, Bool.false_eq_true, false_and, and_false, or_false]
  omega

/-- A silent channel sounds 0 at every duty position. -/
theorem Channel.SilentNow.levelAt (h : ch.SilentNow cfg) (vol : Nat) (q : BitVec 3) : ch.levelAt cfg vol q = 0 :=
  if_pos h

end Silence

/-! ## The reset channel left alone (R171) -/

/-- `RST` completes and restarts both instances (R56, R170). -/
theorem exists_exec_rst (s : State) : ∃ t, exec .rst s = .next t ∧ ∀ c, t.inst c = (s.inst c).restart :=
  ⟨_, exec_rst s, fun c => State.inst_both s c _⟩

/-- With period 0 an expired timer expires again at every cycle, and each of them emits a 0 (R171). -/
theorem State.played_cycledAll_of_period_zero {s : State} {c : Identity} (hperiod : (s.inst c).chan.period = 0#11)
    (hexpired : (s.inst c).chan.timer ≤ 1) (vs : List (Nat × Nat)) :
    State.Played c s (s.cycledAll vs) (List.replicate vs.length 0) ∧
      ((s.cycledAll vs).inst c).chan.timer ≤ 1 ∧
      (0 < vs.length → ((s.cycledAll vs).inst c).chan.timer = 1) := by
  have hsilent : (s.inst c).chan.SilentNow s.config := .inl (by rw [hperiod]; decide)
  induction vs using List.reverseRecOn with
  | nil => exact ⟨.refl, hexpired, nofun⟩
  | append_singleton vs v ih =>
    obtain ⟨hplayed, htimer, -⟩ := ih
    obtain ⟨hclock, hreload⟩ := State.played_cycled_of_le v htimer
    rw [hplayed.levelAt, hsilent.levelAt] at hclock
    rw [hplayed.period, hperiod] at hreload
    rw [State.cycledAll_append, List.length_append, List.replicate_add]
    exact ⟨hplayed.trans hclock, hreload.le, fun _ => hreload⟩

/-- A sweep tick finds the reset sweep disabled, with its divider at 0 and nothing pending (R126). -/
theorem Instance.tickSweep_restart (cfg : Config) (i : Instance) : i.restart.tickSweep cfg = i.restart := by
  rw [Instance.tickSweep, Channel.tickSweep_idle cfg _ rfl rfl rfl]

/-- After `RST` a sweep tick changes nothing. -/
theorem exec_swp_of_exec_rst {s u : State} (h : exec .rst s = .next u) : exec .swp u = .next u := by
  obtain ⟨-, -, -, -, hinst⟩ := exec_next h
  have hfixed : u.both (Instance.tickSweep u.config) = u := by
    refine State.eq_of_inst rfl rfl rfl rfl fun c => ?_
    rw [State.inst_both, hinst c]
    exact Instance.tickSweep_restart ..
  rw [exec_swp, hfixed]

/-- An event that leaves a state as it is does so any number of times. -/
theorem execAll_replicate_of_fixed {i : Instr} {s : State} (h : exec i s = .next s) (n : Nat) :
    execAll (List.replicate n i) s = .next s := by
  induction n with
  | zero => rfl
  | succ n ih => exact (execAll_cons h).trans ih

end Sys2Proof.Machine

/-! ## The statements -/

open Sys2Proof Sys2Proof.Machine

/-- Settles O23: the sample is the level at the new position, and the fields are silent in the three cases of R179. -/
theorem causesOfSilenceAtAClock : Obligations.CausesOfSilenceAtAClock := by
  intro s c hexpired
  obtain ⟨t, hexec, hinst⟩ := exists_exec_cyc s
  refine ⟨t, (s.inst c).chan.levelAt s.config (s.inst c).vol (t.inst c).chan.dutyPos, hexec, ?_, fun h => ?_,
    fun h => ?_⟩
  · rw [hinst]
    exact Instance.cycle_samples_eq_levelAt _ _ _ hexpired
  · exact (Channel.silentNow_iff.mpr h).levelAt ..
  · exact Channel.levelAt_of_not_silentNow (mt Channel.silentNow_iff.mp h) ..

/-- Settles O44: the reset channel is silent with an expired timer, and its sweep is idle. -/
theorem afterResetOnlySilence : Obligations.AfterResetOnlySilence := by
  intro s u c hexec
  obtain ⟨-, -, -, -, hinst⟩ := exec_next hexec
  have hu : u.inst c = (s.inst c).restart := hinst c
  refine ⟨fun vs => ?_, execAll_replicate_of_fixed (exec_swp_of_exec_rst hexec)⟩
  obtain ⟨hplayed, -, htimer⟩ := State.played_cycledAll_of_period_zero (s := u) (c := c)
    (by rw [hu]; rfl) (by rw [hu]; exact Nat.zero_le 1) vs
  refine ⟨_, cyclesWith_eq vs u, ?_, ?_, htimer⟩
  · rw [hplayed.samples, hu, Instance.restart_samples]
  · rw [hplayed.dutyPos, dutyPos_sub_toNat, List.length_replicate, hu]
    simp [Channel.reset]

/-- Settles O19: in either order `W3` loads the timer from the period as it stands at that write. -/
theorem writeOrderOfThePeriodHalves : Obligations.WriteOrderOfThePeriodHalves := by
  intro c lo hi s
  refine ⟨_, _, (execAll_cons (exec_w3 ..)).trans (execAll_cons (exec_w2 ..)),
    (execAll_cons (exec_w2 ..)).trans (execAll_cons (exec_w3 ..)), ?_⟩
  simp [withPeriodLow_withPeriodHigh, withPeriodHigh_toNat (s.inst c).chan.period]

/-- Settles O46: after reset there is neither shift nor negation, and the three writes leave both so. -/
theorem startUpSequenceSounds : Obligations.StartUpSequenceSounds := by
  intro c b0 lo hi s hlow hhigh
  obtain ⟨u, hexec, hinst⟩ := exists_exec_rst s
  refine ⟨_, (execAll_cons hexec).trans ((execAll_cons (exec_w0 ..)).trans
    ((execAll_cons (exec_w2 ..)).trans (execAll_cons (exec_w3 ..)))), ?_⟩
  simp only [State.inst_setInst_self, Instance.writePeriodHigh_chan, Instance.writePeriodLow_chan,
    Instance.writeDuty_chan, withPeriodHigh_withPeriodLow_toNat, hinst]
  refine ⟨trivial, trivial, rfl, trivial, ?_⟩
  rw [Channel.silentNow_iff_of_no_sweep rfl rfl, withPeriodHigh_withPeriodLow_toNat]
  omega

/-- Settles O42: a restarted instance keeps all but the Channel State, and of that the identity. -/
theorem resetEventReinitialisesBothInstances : Obligations.ResetEventReinitialisesBothInstances := by
  refine ⟨decodeWord_encode .rst, fun s => ?_⟩
  obtain ⟨t, hexec, hinst⟩ := exists_exec_rst s
  obtain ⟨hcfg, hin, hrec, hnow, -⟩ := exec_next hexec
  exact ⟨t, hexec, hcfg, hin, hrec, hnow, hinst⟩

/-- Settles O45: the record that `SNAP` answers is that of the restarted instance. -/
theorem snapshotAfterReset : Obligations.SnapshotAfterReset := by
  intro c s
  obtain ⟨u, hexec, hinst⟩ := exists_exec_rst s
  refine ⟨_, (execAll_cons hexec).trans (execAll_cons (exec_snap ..)), ?_⟩
  rw [State.inst_setInst_self, Instance.snapshot_records, hinst]
  rfl

end

section
/-! SUPPORT. Proofs of the family `other`: the event words written out in `95_test_vectors.md` (section 3). -/

open Sys2Proof Sys2Proof.Machine

/-- Settles O5: each of the nine words is the one that the encoder gives its event, and the decoder is the encoder's
inverse. -/
theorem wordsOfTheSpecDecode : Obligations.WordsOfTheSpecDecode := by
  simp only [Obligations.WordsOfTheSpecDecode, decodeWord_eq_event_iff]
  decide

end
